-- ==== Sys2Proof/Word.lean ====
section
/-! DEFINITION. The machine's words: bit vectors of the widths the spec names (00_scope.md R11). -/

namespace Sys2Proof

/-- u8, one byte (R11). -/
abbrev Byte := BitVec 8

/-- u16, one channel of a sample (R9 `CHAN_BITS`, R15). -/
abbrev Channel := BitVec 16

/-- u32, a header word, a raw unit, a count (R11). -/
abbrev Word := BitVec 32

/-- 64 bits, a u64 or the two's complement bits of an s64 (R11, R22). -/
abbrev DWord := BitVec 64

end Sys2Proof
end

