-- ==== Sys2Proof/Config.lean ====
section
/-! DEFINITION. What an implementation fixes: the constants and the open parameters of 00_scope.md R9.
The open parameters are one record of plain data that State carries (log entry 1), so a statement about every
state is a statement about every value of them. The spec leaves no value of an instruction open, so there is no
free value here. -/

namespace Sys2Proof

/-- `RGB565_LAYOUT` (R9, R74): which end of the 16-bit DXT endpoint holds red. -/
inductive Rgb565Layout where
  | rHigh
  | rLow
  deriving DecidableEq, Repr

/-- `MIP_FLOOR` (R9, R206): whether a mip dimension is floored at 1. -/
inductive MipFloor where
  | clamp1
  | naive
  deriving DecidableEq, Repr

/-- The open parameters of R9: ten flag masks, the endpoint layout, the mip floor and the two capacities, whose
`none` is "unbounded". -/
structure Params where
  ddsdHeight      : Word
  ddsdWidth       : Word
  ddsdPixelFormat : Word
  ddsdMipMapCount : Word
  ddpfAlphaPixels : Word
  ddpfAlpha       : Word
  ddpfFourCC      : Word
  ddpfRgb         : Word
  ddpfYuv         : Word
  ddpfLuminance   : Word
  rgb565Layout    : Rgb565Layout
  mipFloor        : MipFloor
  maxMipLevels    : Option Nat
  storeBytes      : Option Nat
  deriving DecidableEq, Repr

/-- The defaults of R9 (log entry 1). -/
def Params.defaults : Params where
  ddsdHeight      := 0x2
  ddsdWidth       := 0x4
  ddsdPixelFormat := 0x1000
  ddsdMipMapCount := 0x20000
  ddpfAlphaPixels := 0x1
  ddpfAlpha       := 0x2
  ddpfFourCC      := 0x4
  ddpfRgb         := 0x40
  ddpfYuv         := 0x200
  ddpfLuminance   := 0x20000
  rgb565Layout    := .rHigh
  mipFloor        := .clamp1
  maxMipLevels    := none
  storeBytes      := none

end Sys2Proof
end

