-- ==== Sys2Proof/Syntax.lean ====
section
/-! DEFINITION. The pixel formats, the seventeen commands, the register names and the host's actions. -/

namespace Sys2Proof

/-- The packed formats (30_encoding.md R70, R71): one pixel per unit. -/
inductive PackedFormat where
  | bgra8888
  | bgr565
  | bgra5551
  | bgra4444
  | rgb565
  deriving DecidableEq, Repr

/-- The block formats (R70, R71): one 4×4 block per unit. -/
inductive BlockFormat where
  | dxt1
  | dxt3
  | dxt5
  deriving DecidableEq, Repr

/-- The closed set of eight pixel formats (R70). -/
inductive PixelFormat where
  | packed (f : PackedFormat)
  | block (f : BlockFormat)
  deriving DecidableEq, Repr

/-- One constructor per row of spec/opcode_table.json (R84). A command word holds no operand (R83): all operands
are in registers (R85). -/
inductive Instr where
  | parse
  | probe
  | atPixel
  | setPixel
  | unpackBgra8888
  | unpackBgr565
  | unpackBgra5551
  | unpackBgra4444
  | unpackRgb565
  | packBgra8888
  | packBgr565
  | packBgra5551
  | packBgra4444
  | packRgb565
  | blkpixDxt1
  | blkpixDxt3
  | blkpixDxt5
  deriving DecidableEq, Repr

/-- The three fields of a command word (R83). -/
structure CommandFields where
  z   : BitVec 1
  fmt : BitVec 3
  op  : BitVec 4
  deriving DecidableEq, Repr

/-- Why a command word is illegal: the six kinds of R86, in its order. -/
inductive IllegalCommand where
  /-- `op = 0` -/
  | opZero
  /-- `op` in 8..15 -/
  | opHigh
  /-- `z = 1` -/
  | zSet
  /-- `fmt` not 0 with `op` in 1..4 -/
  | formatNotZero
  /-- `fmt` in 5..7 with `op` in 5..6 -/
  | formatNotPacked
  /-- `fmt` in 0..4 with `op = 7` -/
  | formatNotBlock
  deriving DecidableEq, Repr

/-- The registers of the register map (10_state.md R36). -/
inductive Reg where
  | cmd | status | pos | nlev | mipCnt | outW | outH | outDepth
  | selLevel | argX | argY | argR | argG | argB | argA
  | resR | resG | resB | resA | unit | blk | stAddr | stData
  | hdrw (i : Fin 31)
  | lvFmt | lvMinX | lvMinY | lvW | lvH | lvStride | lvLen
  deriving DecidableEq, Repr

/-- What the host does next, one line of a host script (30_encoding.md R90) or the reset input (R260).
`wr` and `rd` carry a register NUMBER, listed or not; a written value may be negative (R90). `stream` is no
transaction: it states the input stream of the next PARSE or PROBE. -/
inductive HostAction where
  | wr (number : Nat) (value : Int)
  | rd (number : Nat)
  | stream (bytes : List Byte)
  | reset
  deriving DecidableEq, Repr

end Sys2Proof
end

