-- ==== Sys2Proof/WellFormed.lean ====
section
/-! DEFINITION. The checks on what the machine is given: a command word's fields (30_encoding.md R84) and the flag
masks (00_scope.md R10). -/

namespace Sys2Proof

/-- The acceptance test of R84: `z = 0` and (`op` in 1..4 and `fmt = 0`) or (`op` in 5..6 and `fmt` in 0..4) or
(`op = 7` and `fmt` in 5..7). -/
def CommandFields.wellFormed (c : CommandFields) : Bool :=
  c.z == 0 &&
    ((1 ≤ c.op.toNat && c.op.toNat ≤ 4 && c.fmt == 0) ||
     (5 ≤ c.op.toNat && c.op.toNat ≤ 6 && c.fmt.toNat ≤ 4) ||
     (c.op.toNat == 7 && 5 ≤ c.fmt.toNat))

/-- Every mask is non-zero and shares no bit with a later one. -/
def masksDisjoint : List Word → Bool
  | [] => true
  | m :: ms => m != 0 && ms.all (fun n => m &&& n == 0) && masksDisjoint ms

/-- The four `DDSD_*` masks. -/
def Params.headerMasks (p : Params) : List Word :=
  [p.ddsdHeight, p.ddsdWidth, p.ddsdPixelFormat, p.ddsdMipMapCount]

/-- The six `DDPF_*` masks. -/
def Params.descriptorMasks (p : Params) : List Word :=
  [p.ddpfAlphaPixels, p.ddpfAlpha, p.ddpfFourCC, p.ddpfRgb, p.ddpfYuv, p.ddpfLuminance]

/-- R10: "The four `DDSD_*` masks are non-zero and pairwise disjoint, and so are the six `DDPF_*` masks." -/
def Params.wellFormed (p : Params) : Bool :=
  masksDisjoint p.headerMasks && masksDisjoint p.descriptorMasks

end Sys2Proof
end

