-- ==== Sys2Proof/Decode.lean ====
section
/-! DEFINITION. The command decoder, total on all 256 words, and the encoder (30_encoding.md R83, R84, R86). -/

namespace Sys2Proof

/-- The fields of a command word: `op = CMD[3:0]`, `fmt = CMD[6:4]`, `z = CMD[7]` (R84). -/
def commandFields (w : Byte) : CommandFields where
  z   := w.extractLsb' 7 1
  fmt := w.extractLsb' 4 3
  op  := w.extractLsb' 0 4

/-- The word made of three fields (R83). -/
def commandWord (c : CommandFields) : Byte := c.z ++ c.fmt ++ c.op

/-- The command without a format field: `fmt` must be 0 (R83). -/
def plainCommand (i : Instr) (fmt : Nat) : Except IllegalCommand Instr :=
  if fmt = 0 then .ok i else .error .formatNotZero

/-- `op = 5`: UNPACK of the packed format `fmt` (R84). -/
def unpackCommand (fmt : Nat) : Except IllegalCommand Instr :=
  match fmt with
  | 0 => .ok .unpackBgra8888
  | 1 => .ok .unpackBgr565
  | 2 => .ok .unpackBgra5551
  | 3 => .ok .unpackBgra4444
  | 4 => .ok .unpackRgb565
  | _ => .error .formatNotPacked

/-- `op = 6`: PACK of the packed format `fmt` (R84). -/
def packCommand (fmt : Nat) : Except IllegalCommand Instr :=
  match fmt with
  | 0 => .ok .packBgra8888
  | 1 => .ok .packBgr565
  | 2 => .ok .packBgra5551
  | 3 => .ok .packBgra4444
  | 4 => .ok .packRgb565
  | _ => .error .formatNotPacked

/-- `op = 7`: BLKPIX of the block format `fmt` (R84). -/
def blkpixCommand (fmt : Nat) : Except IllegalCommand Instr :=
  match fmt with
  | 5 => .ok .blkpixDxt1
  | 6 => .ok .blkpixDxt3
  | 7 => .ok .blkpixDxt5
  | _ => .error .formatNotBlock

/-- The operation field selects (R84); `op = 0` and `op` in 8..15 select nothing (R86). -/
def operationCommand (op fmt : Nat) : Except IllegalCommand Instr :=
  match op with
  | 0 => .error .opZero
  | 1 => plainCommand .parse fmt
  | 2 => plainCommand .probe fmt
  | 3 => plainCommand .atPixel fmt
  | 4 => plainCommand .setPixel fmt
  | 5 => unpackCommand fmt
  | 6 => packCommand fmt
  | 7 => blkpixCommand fmt
  | _ => .error .opHigh

/-- The decoder: the command of a written word, or the kind of R86 that makes it illegal. A word of several kinds
is named by the first of: `z`, `op`, `fmt`; all kinds have the same effect (R86; log entry 9). -/
def decodeCommand (w : Byte) : Except IllegalCommand Instr :=
  let c := commandFields w
  if c.z = 1 then .error .zSet else operationCommand c.op.toNat c.fmt.toNat

/-- The fields of each command, the column `z fmt op` of R84. -/
def instrFields (i : Instr) : CommandFields :=
  match i with
  | .parse          => ⟨0, 0b000, 0b0001⟩
  | .probe          => ⟨0, 0b000, 0b0010⟩
  | .atPixel        => ⟨0, 0b000, 0b0011⟩
  | .setPixel       => ⟨0, 0b000, 0b0100⟩
  | .unpackBgra8888 => ⟨0, 0b000, 0b0101⟩
  | .unpackBgr565   => ⟨0, 0b001, 0b0101⟩
  | .unpackBgra5551 => ⟨0, 0b010, 0b0101⟩
  | .unpackBgra4444 => ⟨0, 0b011, 0b0101⟩
  | .unpackRgb565   => ⟨0, 0b100, 0b0101⟩
  | .packBgra8888   => ⟨0, 0b000, 0b0110⟩
  | .packBgr565     => ⟨0, 0b001, 0b0110⟩
  | .packBgra5551   => ⟨0, 0b010, 0b0110⟩
  | .packBgra4444   => ⟨0, 0b011, 0b0110⟩
  | .packRgb565     => ⟨0, 0b100, 0b0110⟩
  | .blkpixDxt1     => ⟨0, 0b101, 0b0111⟩
  | .blkpixDxt3     => ⟨0, 0b110, 0b0111⟩
  | .blkpixDxt5     => ⟨0, 0b111, 0b0111⟩

/-- An instruction is well formed when its fields pass R84's test; every constructor is (no constructor has an
operand). -/
def instrWellFormed (i : Instr) : Bool := (instrFields i).wellFormed

/-- The encoder: the command word of an instruction (R84). -/
def encode (i : Instr) : Byte := commandWord (instrFields i)

/-- The host's question: what the decoder reads from the word `w` of `nbits` bits. A command is one byte (R83), the
bits above `nbits` are 0. -/
def decodeTableWord (nbits w : Nat) : Option Instr :=
  (decodeCommand (BitVec.ofNat 8 (w % 2 ^ nbits))).toOption

end Sys2Proof
end

