-- ==== Sys2Proof/Machine/State.lean ====
section
/-! DEFINITION. The state of the unit (10_state.md), the host's side the step reads, the stops, and reset. -/

namespace Sys2Proof.Machine

/-- `PHASE` (R27): eight values, the five middle ones the steps of a decode call. -/
inductive Phase where
  | idle | readMagic | readHeader | validateFlags | classify | buildMip | done | failed
  deriving DecidableEq, Repr

/-- The six errors of 60_exceptions.md R231. -/
inductive DecodeError where
  | badMagic | badHeader | unsupportedExtension | missingFields | unsupportedFormat | truncatedData
  deriving DecidableEq, Repr

/-- A sample `(R, G, B, A)` of four u16 channels (00_scope.md R15). -/
structure Sample where
  r : Channel
  g : Channel
  b : Channel
  a : Channel
  deriving DecidableEq, Repr

/-- The zero sample (R15). -/
def Sample.zero : Sample := ⟨0, 0, 0, 0⟩

/-- The bytes of one level store, by offset: cells in rising order of offset, none of them the byte 0x00, which is
what an unlisted offset reads as (log entry 4). -/
abbrev Memory := List Host.Cell

/-- One mip level, an entry of the level table (R33). -/
structure Level where
  fmt    : PixelFormat
  minX   : DWord
  minY   : DWord
  w      : Word
  h      : Word
  stride : Nat
  len    : Nat
  store  : Memory
  deriving DecidableEq, Repr

/-- The whole state (R21). `fmt` is the pair FMTV, FMT (R30); `mip` is the level table and its length is NLEV (R28,
R33). The last four fields are the model's own: the open parameters and the input stream, which R39 makes arguments
of a step (log entries 1 and 3), and the host's script and observations (R90, log entry 2). -/
structure State where
  phase    : Phase
  err      : Option DecodeError
  cmdErr   : Bool
  fmt      : Option PixelFormat
  probe    : Bool
  pos      : DWord
  levelIdx : Word
  mip      : List Level
  mipCnt   : Word
  outW     : Word
  outH     : Word
  outDepth : Byte
  hdrw     : Vector Word 31
  selLevel : Word
  stAddr   : DWord
  argX     : DWord
  argY     : DWord
  arg      : Sample
  res      : Sample
  unit     : Word
  blk      : BitVec 128
  params   : Params
  input    : List Byte
  script   : List HostAction
  observed : List Nat
  deriving DecidableEq, Repr

/-- What stops the machine with a fault. -/
inductive Fault where
  /-- Raised by AT and SET when MemRead or MemWrite falls outside the level's store, which R55 leaves undefined and
  allows a model to make a fault. Safe: no state that satisfies the invariant of R41 reaches it (R169); log entry 8. -/
  | storeAccess
  deriving DecidableEq, Repr

/-- What the machine gives no meaning to. -/
inductive Refusal where
  /-- Raised by `exec` for an instruction that has no meaning yet; safe. No arm uses it. -/
  | notModelled (mnemonic : String)
  /-- Raised by PARSE in BUILD_MIP when MIPCNT exceeds a bounded `MAX_MIP_LEVELS` (R210, R242); safe; log entry 5. -/
  | levelTableBound
  /-- Raised by PARSE in BUILD_MIP when the stores would exceed a bounded `STORE_BYTES` (R210, R242); safe; log
  entry 6. -/
  | storeBound
  /-- Raised by PARSE and PROBE on an input of 2^64 bytes or more, which R51 says does not exist; safe; log
  entry 7. -/
  | streamTooLong
  deriving DecidableEq, Repr

/-- The machine right after reset (R40): every piece of the unit's state at the value of R40's table. The model's own
fields: the parameters at the defaults of R9, no stream offered, no script, nothing observed (log entries 1 to 3). -/
def State.reset : State where
  phase    := .idle
  err      := none
  cmdErr   := false
  fmt      := none
  probe    := false
  pos      := 0
  levelIdx := 0
  mip      := []
  mipCnt   := 0
  outW     := 0
  outH     := 0
  outDepth := 0
  hdrw     := Vector.replicate 31 0
  selLevel := 0
  stAddr   := 0
  argX     := 0
  argY     := 0
  arg      := Sample.zero
  res      := Sample.zero
  unit     := 0
  blk      := 0
  params   := Params.defaults
  input    := []
  script   := []
  observed := []

end Sys2Proof.Machine
end

