-- ==== Sys2Proof/Machine/Ops.lean ====
section
/-! DEFINITION. The named operations: bytes and byte order, the level stores, formats and geometry, the input stream,
the updates of State, and the three ways a command ends other than by its result: an error is raised, a new call
clears it, a command is refused. -/

namespace Sys2Proof.Machine

/-! ### Byte strings (00_scope.md R13) -/

/-- `LE_n(b)` of a byte string of any length, as a natural number: the first byte is the least significant. -/
def leNat : List Byte → Nat
  | [] => 0
  | b :: bs => b.toNat + 256 * leNat bs

/-- `LE_n(b)` as a bit vector of `w` bits. -/
def leBits (w : Nat) (b : List Byte) : BitVec w := BitVec.ofNat w (leNat b)

/-- `bytesLE_n(v)`: the `n` bytes with `b[i] = v[8i+7:8i]`. -/
def bytesLE (n : Nat) {w : Nat} (v : BitVec w) : List Byte :=
  (List.range n).map fun i => v.extractLsb' (8 * i) 8

/-! ### Level stores (20_memory.md R54 to R56) -/

/-- What an offset that no cell names reads as (log entry 4). -/
def unlistedByte : Byte := 0

/-- One byte of a store. -/
def Memory.read : Memory → Nat → Byte
  | [], _ => unlistedByte
  | c :: m, a => if c.1 = a then c.2 else Memory.read m a

/-- A cell in front of a store, left out when it holds what an unlisted offset reads as. -/
def Memory.push (a : Nat) (b : Byte) (m : Memory) : Memory :=
  if b = unlistedByte then m else (a, b) :: m

/-- Replace one byte of a store. -/
def Memory.write : Memory → Nat → Byte → Memory
  | [], a, b => Memory.push a b []
  | c :: m, a, b =>
    if a < c.1 then Memory.push a b (c :: m)
    else if a = c.1 then Memory.push a b m
    else c :: Memory.write m a b

/-- The store that holds the byte string `d` from offset `a` on. -/
def Memory.ofBytes (a : Nat) : List Byte → Memory
  | [] => []
  | b :: d => Memory.push a b (Memory.ofBytes (a + 1) d)

/-- Write a byte string, `bytes[i]` to offset `off + i` (R56). -/
def Memory.writeBytes : Memory → Nat → List Byte → Memory
  | m, _, [] => m
  | m, off, b :: d => Memory.writeBytes (Memory.write m off b) (off + 1) d

/-- Read a byte string of `n` bytes (R55). -/
def Memory.readBytes (m : Memory) (off n : Nat) : List Byte :=
  (List.range n).map fun i => Memory.read m (off + i)

/-- Offsets strictly rising from at least `lo`, and no cell that an unlisted offset would read as. -/
def Memory.wfFrom (lo : Nat) : Memory → Bool
  | [] => true
  | c :: m => decide (lo ≤ c.1) && c.2 != unlistedByte && Memory.wfFrom (c.1 + 1) m

/-- The canonical form. -/
def Memory.wf (m : Memory) : Bool := Memory.wfFrom 0 m

/-- Every cell lies below the store's length. -/
def Memory.below (len : Nat) (m : Memory) : Bool := m.all fun c => decide (c.1 < len)

/-! ### Formats (30_encoding.md R71) -/

/-- The 3-bit format code. -/
def formatCode : PixelFormat → BitVec 3
  | .packed .bgra8888 => 0
  | .packed .bgr565   => 1
  | .packed .bgra5551 => 2
  | .packed .bgra4444 => 3
  | .packed .rgb565   => 4
  | .block .dxt1      => 5
  | .block .dxt3      => 6
  | .block .dxt5      => 7

/-- `unitSize` of a packed format. -/
def packedUnitSize : PackedFormat → Nat
  | .bgra8888 => 4
  | .bgr565   => 2
  | .bgra5551 => 2
  | .bgra4444 => 2
  | .rgb565   => 2

/-- `unitSize` of a block format. -/
def blockUnitSize : BlockFormat → Nat
  | .dxt1 => 8
  | .dxt3 => 16
  | .dxt5 => 16

/-- `unitSize(fmt)`, in bytes. -/
def unitSize : PixelFormat → Nat
  | .packed f => packedUnitSize f
  | .block f => blockUnitSize f

/-- `blockDim(fmt)`, in pixels. -/
def blockDim : PixelFormat → Nat
  | .packed _ => 1
  | .block _ => 4

/-! ### Geometry of a level (42_pixel_buffer.md R161 to R169) -/

/-- `ceil(a / b)` (00_scope.md R12). -/
def ceilDiv (a b : Nat) : Nat := (a + b - 1) / b

/-- Bytes per row of pixels, or per row of blocks (R163). -/
def strideOf (f : PixelFormat) (w : Nat) : Nat :=
  match f with
  | .block _ => ceilDiv w 4 * unitSize f
  | .packed _ => w * unitSize f

/-- Rows of units (R164). -/
def rowsOf (f : PixelFormat) (h : Nat) : Nat := ceilDiv h (blockDim f)

/-- Bytes of a store (R165). -/
def lengthOf (f : PixelFormat) (w h : Nat) : Nat := strideOf f w * rowsOf f h

/-- A level of format `f` and size `w × h` at origin 0, its store not yet filled (R162, R207). -/
def newLevel (f : PixelFormat) (w h : Word) : Level where
  fmt    := f
  minX   := 0
  minY   := 0
  w      := w
  h      := h
  stride := strideOf f w.toNat
  len    := lengthOf f w.toNat h.toNat
  store  := []

/-- A level with its store filled from a byte string, byte `i` at offset `i` (R54, R207). -/
def fillLevel (m : Level) (d : List Byte) : Level := { m with store := Memory.ofBytes 0 d }

/-- `in_rect(m, x, y)`, the sums exact (R161). -/
def inRect (m : Level) (x y : Int) : Bool :=
  decide (m.minX.toInt ≤ x) && decide (x < m.minX.toInt + m.w.toNat) &&
    (decide (m.minY.toInt ≤ y) && decide (y < m.minY.toInt + m.h.toNat))

/-- `offsetOf(m, x, y)`, for points inside the rectangle (R167, R168). -/
def offsetOf (m : Level) (x y : Int) : Int :=
  match m.fmt with
  | .packed _ => (y - m.minY.toInt) * m.stride + (x - m.minX.toInt) * unitSize m.fmt
  | .block _ => m.stride * (y / 4) + (x / 4) * unitSize m.fmt

/-- `off .. off+n-1` lies inside the level's store: when MemRead and MemWrite are defined (R55). -/
def storeCovers (m : Level) (off : Int) (n : Nat) : Bool :=
  decide (0 ≤ off) && decide (off + n ≤ m.len)

/-- `MemRead` on a level (R55); nothing where it is not defined. -/
def memRead (m : Level) (off : Int) (n : Nat) : Option (List Byte) :=
  if storeCovers m off n then some (Memory.readBytes m.store off.toNat n) else none

/-- `MemWrite` on a level (R56); nothing where it is not defined. -/
def memWrite (m : Level) (off : Int) (d : List Byte) : Option Level :=
  if storeCovers m off d.length then some { m with store := Memory.writeBytes m.store off.toNat d } else none

/-! ### The level table (10_state.md R28, R33, R34) -/

/-- `NLEV`, the number of levels (R28). -/
def State.nlev (s : State) : Nat := s.mip.length

/-- `MIP[SEL_LEVEL]`, when `SEL_LEVEL < NLEV` (R34). -/
def State.selected (s : State) : Option Level := s.mip[s.selLevel.toNat]?

/-- The total of the level stores, in bytes. -/
def State.storeTotal (s : State) : Nat := (s.mip.map Level.len).sum

/-- `MIP[SEL_LEVEL] <- m`. -/
def State.setSelected (m : Level) (s : State) : State := { s with mip := s.mip.set s.selLevel.toNat m }

/-- `MIP[LEVEL] <- m ; NLEV <- LEVEL + 1 ; LEVEL <- LEVEL + 1` (43_container_parser.md R205, R207). -/
def State.appendLevel (m : Level) (s : State) : State :=
  { s with mip := s.mip ++ [m], levelIdx := s.levelIdx + 1 }

/-! ### The input stream (20_memory.md R52) -/

/-- The bytes `StreamRead(n)` returns: `IN[POS .. POS+k-1]` with `k = min(n, |IN| - POS)`. -/
def streamTake (n : Nat) (s : State) : List Byte :=
  (s.input.drop s.pos.toNat).take (min n (s.input.length - s.pos.toNat))

/-- The state after `StreamRead(n)`: `POS <- POS + k`. -/
def streamAdvance (n : Nat) (s : State) : State :=
  { s with pos := s.pos + BitVec.ofNat 64 (streamTake n s).length }

/-! ### Register updates -/

/-- The four result registers, always written as one sample (10_state.md R23). -/
def State.setRes (x : Sample) (s : State) : State := { s with res := x }

/-- `UNIT <- u`. -/
def State.setUnit (u : Word) (s : State) : State := { s with unit := u }

/-- `PHASE <- p`, the control transfer of 00_scope.md R14. -/
def State.setPhase (p : Phase) (s : State) : State := { s with phase := p }

/-- One header register from the bytes that arrived: `HDRW[i] <- LE_4(d[4i .. 4i+3])`, a missing byte taken as 0x00
(43_container_parser.md R197). -/
def headerWord (d : List Byte) (i : Nat) : Word :=
  leBits 32 [d.getD (4 * i) 0, d.getD (4 * i + 1) 0, d.getD (4 * i + 2) 0, d.getD (4 * i + 3) 0]

/-- All 31 header registers from the bytes that arrived (R197). -/
def headerWords (d : List Byte) : Vector Word 31 :=
  Vector.mk (Array.mk ((List.range 31).map (headerWord d))) (by simp)

/-- Load the header registers (R197). -/
def State.loadHeader (d : List Byte) (s : State) : State := { s with hdrw := headerWords d }

/-- `MIPCNT`, `OUT_W`, `OUT_H`, `OUT_DEPTH` (R199, R200). -/
def State.setProbeOutputs (n w h : Word) (s : State) : State :=
  { s with mipCnt := n, outW := w, outH := h, outDepth := 16 }

/-- `FMT <- code ; FMTV <- 1 ; LEVEL <- 0 ; PHASE <- BUILD_MIP` (R201). -/
def State.setFormat (f : PixelFormat) (s : State) : State :=
  { s with fmt := some f, levelIdx := 0, phase := .buildMip }

/-- The format `FMT` names; while FMTV = 0 it reads 0, BGRA8888 (10_state.md R30; log entry
10). -/
def State.format (s : State) : PixelFormat := s.fmt.getD (.packed .bgra8888)

/-! ### Errors, clearing, refusal, reset -/

/-- `raise E` (60_exceptions.md R236): `ERR <- code(E) ; NLEV <- 0 ; PHASE <- FAILED`, nothing else. -/
def raiseError (e : DecodeError) (s : State) : State := { s with err := some e, mip := [], phase := .failed }

/-- The clearing at the start of a decode call, which is also the only way but reset out of FAILED
(43_container_parser.md R211, 60_exceptions.md R238). -/
def beginCall (probe : Bool) (s : State) : State :=
  { s with err := none, fmt := none, pos := 0, levelIdx := 0, mip := [], mipCnt := 0, outW := 0, outH := 0,
           outDepth := 0, hdrw := Vector.replicate 31 0, probe := probe, phase := .readMagic }

/-- `cmderr` (60_exceptions.md R240): `STATUS.CMDERR <- 1`, no other state changes. -/
def refuseCommand (s : State) : State := { s with cmdErr := true }

/-- The reset input (10_state.md R40, 70_reset_and_hazards.md R260, R261): the unit's state is replaced whole; what is
the host's stays (log entry 2). -/
def hostReset (s : State) : State :=
  { State.reset with params := s.params, input := s.input, script := s.script, observed := s.observed }

end Sys2Proof.Machine
end

