-- ==== Sys2Proof/Machine/Flags.lean ====
section
/-! DEFINITION. The flags: the codes and the layout of `STATUS` (10_state.md R25 to R27), and the tests of the header and
descriptor flag words (30_encoding.md R81, R82). No arithmetic operation sets a flag (R25). -/

namespace Sys2Proof.Machine

/-- The codes of `PHASE` (R27). -/
def phaseCode : Phase → BitVec 3
  | .idle          => 0
  | .readMagic     => 1
  | .readHeader    => 2
  | .validateFlags => 3
  | .classify      => 4
  | .buildMip      => 5
  | .done          => 6
  | .failed        => 7

/-- The codes of the errors (60_exceptions.md R231). -/
def errorCode : DecodeError → BitVec 3
  | .badMagic             => 1
  | .badHeader            => 2
  | .unsupportedExtension => 3
  | .missingFields        => 4
  | .unsupportedFormat    => 5
  | .truncatedData        => 6

/-- `ERR`: 0 when no error (R26). -/
def errField : Option DecodeError → BitVec 3
  | none => 0
  | some e => errorCode e

/-- `FMT`: 0 while FMTV = 0 (R30). -/
def fmtField : Option PixelFormat → BitVec 3
  | none => 0
  | some f => formatCode f

/-- `STATUS` (R25): PHASE in 2:0, bit 3 zero, ERR in 6:4, CMDERR in 7, FMTV in 8, FMT in 11:9, PROBE in 12, bits 15:13
zero. -/
def statusWord (s : State) : BitVec 16 :=
  (0 : BitVec 3) ++ BitVec.ofBool s.probe ++ fmtField s.fmt ++ BitVec.ofBool s.fmt.isSome ++
    BitVec.ofBool s.cmdErr ++ errField s.err ++ (0 : BitVec 1) ++ phaseCode s.phase

/-- A phase no decode call is running in (R27, R41). -/
def resting : Phase → Bool
  | .idle | .done | .failed => true
  | .readMagic | .readHeader | .validateFlags | .classify | .buildMip => false

/-- `(flags & mask) != 0`: one flag is set (43_container_parser.md R199, R201, R203). -/
def flagSet (flags mask : Word) : Bool := flags &&& mask != 0

/-- `DDSD_HEIGHT | DDSD_WIDTH | DDSD_PIXELFORMAT` (R198). -/
def requiredFlags (p : Params) : Word := p.ddsdHeight ||| p.ddsdWidth ||| p.ddsdPixelFormat

/-- `(H_FLAGS & req) = req` (R198). -/
def requiredPresent (p : Params) (flags : Word) : Bool := flags &&& requiredFlags p == requiredFlags p

end Sys2Proof.Machine
end

