-- ==== Sys2Proof/Machine/Operands.lean ====
section
/-! DEFINITION. The operand forms (30_encoding.md R85): coordinates as s64, local block coordinates, the block in `BLK`,
the sample in the four `ARG_*` channels. -/

namespace Sys2Proof.Machine

/-- `ARG_X` as an s64 (10_state.md R22, R23). -/
def State.x (s : State) : Int := s.argX.toInt

/-- `ARG_Y` as an s64 (R22, R23). -/
def State.y (s : State) : Int := s.argY.toInt

/-- A local block coordinate: a value in `[0, 4)`, nothing for any other (41_block_decoder.md R146). -/
def localCoord (v : Int) : Option (Fin 4) :=
  if h : 0 ≤ v ∧ v < 4 then some ⟨v.toNat, by omega⟩ else none

/-- `v mod 4`, the coordinate inside the block that holds pixel `v` (42_pixel_buffer.md R172). -/
def coordInBlock (v : Int) : Fin 4 := ⟨(v % 4).toNat, by omega⟩

/-- Bytes `0 .. n-1` of the block in `BLK`: byte `i` is `BLK[8i+7:8i]` (10_state.md R23). -/
def State.blockBytes (n : Nat) (s : State) : List Byte := bytesLE n s.blk

end Sys2Proof.Machine
end

