-- ==== Sys2Proof/Machine/Parser.lean ====
section
/-! DEFINITION. The container parser (43_container_parser.md): the five phases, the transitions of R191, PARSE and
PROBE. -/

namespace Sys2Proof.Machine

/-! ### Constants of the stream (00_scope.md R9, 30_encoding.md R80, R82) -/

/-- `MAGIC`, "DDS " (R80). -/
def ddsMagic : List Byte := [0x44, 0x44, 0x53, 0x20]

/-- `HEADER_BYTES` (R9). -/
def headerBytes : Nat := 124

/-- "DXT1" as `LE_4` (R82). -/
def tagDxt1 : Word := 0x31545844

/-- "DXT3" as `LE_4` (R82). -/
def tagDxt3 : Word := 0x33545844

/-- "DXT5" as `LE_4` (R82). -/
def tagDxt5 : Word := 0x35545844

/-- "DX10" as `LE_4` (R82). -/
def tagDx10 : Word := 0x30315844

/-! ### Named header fields (10_state.md R32) -/

def State.hSize (s : State) : Word := s.hdrw[0]
def State.hFlags (s : State) : Word := s.hdrw[1]
def State.hHeight (s : State) : Word := s.hdrw[2]
def State.hWidth (s : State) : Word := s.hdrw[3]
def State.hMipCount (s : State) : Word := s.hdrw[6]
def State.pfFlags (s : State) : Word := s.hdrw[19]
def State.pfFourCC (s : State) : Word := s.hdrw[20]
def State.pfRMask (s : State) : Word := s.hdrw[22]
def State.pfGMask (s : State) : Word := s.hdrw[23]
def State.pfBMask (s : State) : Word := s.hdrw[24]
def State.pfAMask (s : State) : Word := s.hdrw[25]

/-! ### Classification (R201 to R204) -/

/-- The FOURCC branch (R202). -/
def classifyFourCC (tag : Word) : Option PixelFormat :=
  if tag = tagDxt1 then some (.block .dxt1)
  else if tag = tagDxt3 then some (.block .dxt3)
  else if tag = tagDxt5 then some (.block .dxt5)
  else none

/-- The RGB branch: all four masks compared whole (R203). -/
def classifyRgb (alphaPixels : Bool) (r g b a : Word) : Option PixelFormat :=
  if alphaPixels then
    if (r, g, b, a) = (0x00FF0000, 0x0000FF00, 0x000000FF, 0xFF000000) then some (.packed .bgra8888)
    else if (r, g, b, a) = (0x00000F00, 0x000000F0, 0x0000000F, 0x0000F000) then some (.packed .bgra4444)
    else if (r, g, b, a) = (0x00007C00, 0x000003E0, 0x0000001F, 0x00008000) then some (.packed .bgra5551)
    else none
  else if (r, g, b, a) = (0x0000F800, 0x000007E0, 0x0000001F, 0x00000000) then some (.packed .bgr565)
  else none

/-- The branches in the source's order, the first whose flag condition holds decides (R201). -/
def classify (p : Params) (flags tag r g b a : Word) : Option PixelFormat :=
  if flagSet flags p.ddpfFourCC then classifyFourCC tag
  else if flagSet flags p.ddpfRgb then classifyRgb (flagSet flags p.ddpfAlphaPixels) r g b a
  else none

/-! ### Mip dimensions and capacity (R206, R210) -/

/-- One dimension of level `i` from the base dimension (R206). -/
def mipDim (p : Params) (base : Word) (i : Nat) : Word :=
  match p.mipFloor with
  | .clamp1 => BitVec.ofNat 32 (max 1 (base.toNat >>> i))
  | .naive => BitVec.ofNat 32 (base.toNat >>> i)

/-- Level `i` of the header in `HDRW`, not yet filled (R206, R207). -/
def levelFor (s : State) (i : Nat) : Level :=
  newLevel s.format (mipDim s.params s.hWidth i) (mipDim s.params s.hHeight i)

/-- A bounded capacity is exceeded; an unbounded one never is (R210, R242). -/
def exceeds (bound : Option Nat) (n : Nat) : Bool :=
  match bound with
  | none => false
  | some b => decide (b < n)

/-! ### The five phases -/

/-- Phase 1, ReadMagic (R194). -/
def readMagic (s : State) : State :=
  let d := streamTake 4 s
  let t := streamAdvance 4 s
  if d.length < 4 ∨ d ≠ ddsMagic then raiseError .badMagic t else t.setPhase .readHeader

/-- Phase 2, ReadHeader (R195 to R197): the short read, the size, the DX10 tag, in this order. -/
def readHeader (s : State) : State :=
  let d := streamTake headerBytes s
  let t := (streamAdvance headerBytes s).loadHeader d
  if d.length < headerBytes then raiseError .badHeader t
  else if t.hSize ≠ 124 then raiseError .badHeader t
  else if t.pfFourCC = tagDx10 then raiseError .unsupportedExtension t
  else t.setPhase .validateFlags

/-- The effective mip count (R199). -/
def effectiveMipCount (s : State) : Word := if flagSet s.hFlags s.params.ddsdMipMapCount then s.hMipCount else 1

/-- Phase 3, ValidateFlags (R198 to R200). -/
def validateFlags (s : State) : State :=
  if requiredPresent s.params s.hFlags then
    (s.setProbeOutputs (effectiveMipCount s) s.hWidth s.hHeight).setPhase (if s.probe then .done else .classify)
  else raiseError .missingFields s

/-- The format the descriptor in `HDRW` is classified as (R201). -/
def classifyHeader (s : State) : Option PixelFormat :=
  classify s.params s.pfFlags s.pfFourCC s.pfRMask s.pfGMask s.pfBMask s.pfAMask

/-- Phase 4, ClassifyFormat (R201). -/
def classifyFormat (s : State) : State :=
  match classifyHeader s with
  | some f => s.setFormat f
  | none => raiseError .unsupportedFormat s

/-- Read one level's bytes and keep it, or fail with TruncatedData (R207, R208). -/
def readLevel (m : Level) (s : State) : State :=
  let d := streamTake m.len s
  let t := streamAdvance m.len s
  if d.length < m.len then raiseError .truncatedData t else t.appendLevel (fillLevel m d)

/-- Phase 5, one turn of BuildMipChain (R205, R209): the next level, or DONE when `LEVEL = MIPCNT`. A bounded capacity
that the call exceeds has no meaning and is refused (R210; log entries 5 and 6). -/
def buildMip (s : State) : Host.Outcome State Fault Refusal :=
  if s.levelIdx.toNat < s.mipCnt.toNat then
    if exceeds s.params.maxMipLevels s.mipCnt.toNat then .refused .levelTableBound
    else if exceeds s.params.storeBytes (s.storeTotal + (levelFor s s.levelIdx.toNat).len) then .refused .storeBound
    else .next (readLevel (levelFor s s.levelIdx.toNat) s)
  else .next (s.setPhase .done)

/-! ### Control (R191) -/

/-- One transition of R191; the three resting phases have none. -/
def phaseStep (s : State) : Host.Outcome State Fault Refusal :=
  match s.phase with
  | .idle          => .next s
  | .readMagic     => .next (readMagic s)
  | .readHeader    => .next (readHeader s)
  | .validateFlags => .next (validateFlags s)
  | .classify      => .next (classifyFormat s)
  | .buildMip      => buildMip s
  | .done          => .next s
  | .failed        => .next s

/-- At most `n` transitions, stopping at a resting phase. -/
def runPhases : Nat → State → Host.Outcome State Fault Refusal
  | 0, s => .next s
  | n + 1, s =>
    if resting s.phase then .next s
    else
      match phaseStep s with
      | .next t => runPhases n t
      | .fault r => .fault r
      | .refused r => .refused r

/-- A whole decode call (R192, R193): the clearing, the four phases that run once, then BUILD_MIP, at most
`MIPCNT + 1` turns of it (R191: "at most `5 + MIPCNT` transitions"; log entry 11). -/
def decodeCall (probe : Bool) (s : State) : Host.Outcome State Fault Refusal :=
  if s.input.length < 2 ^ 64 then
    match runPhases 4 (beginCall probe s) with
    | .next t => runPhases (t.mipCnt.toNat + 1) t
    | .fault r => .fault r
    | .refused r => .refused r
  else .refused .streamTooLong

/-- PARSE (R192). -/
def execParse (s : State) : Host.Outcome State Fault Refusal := decodeCall false s

/-- PROBE (R193). -/
def execProbe (s : State) : Host.Outcome State Fault Refusal := decodeCall true s

end Sys2Proof.Machine
end

