-- ==== Sys2Proof/Machine/Codec.lean ====
section
/-! DEFINITION. The packed colour codec (40_packed_codec.md): expansion, reduction, UNPACK and PACK. -/

namespace Sys2Proof.Machine

/-! ### Expansion and reduction -/

/-- The field placed at the top of 16 bits (R101). -/
def placed (w : Nat) (f : BitVec w) : Channel := f.setWidth 16 <<< (16 - w)

/-- `F | (F >> w) | (F >> 2w) | ...` over the first `n` shifts. -/
def orShifts (w : Nat) (F : Channel) : Nat → Channel
  | 0 => 0
  | n + 1 => orShifts w F n ||| (F >>> (n * w))

/-- `expand_w(f)` (R101): every shift `j*w` below 16; the shifts from 16 on add no bit. -/
def expand (w : Nat) (f : BitVec w) : Channel := orShifts w (placed w f) 16

/-- `reduce_w(c)` (R110): the top `w` bits of the channel. -/
def reduce (w : Nat) (c : Channel) : BitVec w := (c >>> (16 - w)).setWidth w

/-! ### UNPACK (R104 to R108, R119) -/

/-- R104, fields R72. -/
def unpackSampleBgra8888 (u : Word) : Sample where
  b := expand 8 (u.extractLsb' 0 8)
  g := expand 8 (u.extractLsb' 8 8)
  r := expand 8 (u.extractLsb' 16 8)
  a := expand 8 (u.extractLsb' 24 8)

/-- R105, fields R73; no alpha field, the alpha is opaque. -/
def unpackSampleBgr565 (u : Word) : Sample where
  r := expand 5 (u.extractLsb' 11 5)
  g := expand 6 (u.extractLsb' 5 6)
  b := expand 5 (u.extractLsb' 0 5)
  a := 0xFFFF

/-- R106, fields R75. -/
def unpackSampleBgra5551 (u : Word) : Sample where
  r := expand 5 (u.extractLsb' 10 5)
  g := expand 5 (u.extractLsb' 5 5)
  b := expand 5 (u.extractLsb' 0 5)
  a := expand 1 (u.extractLsb' 15 1)

/-- R107, fields R76. -/
def unpackSampleBgra4444 (u : Word) : Sample where
  r := expand 4 (u.extractLsb' 8 4)
  g := expand 4 (u.extractLsb' 4 4)
  b := expand 4 (u.extractLsb' 0 4)
  a := expand 4 (u.extractLsb' 12 4)

/-- R108, fields R74 under `RGB565_LAYOUT`. -/
def unpackSampleRgb565 (p : Params) (u : Word) : Sample :=
  match p.rgb565Layout with
  | .rHigh => ⟨expand 5 (u.extractLsb' 11 5), expand 6 (u.extractLsb' 5 6), expand 5 (u.extractLsb' 0 5), 0xFFFF⟩
  | .rLow => ⟨expand 5 (u.extractLsb' 0 5), expand 6 (u.extractLsb' 5 6), expand 5 (u.extractLsb' 11 5), 0xFFFF⟩

/-- `unpack(fmt, u)` (R119). -/
def unpackSample (p : Params) (f : PackedFormat) (u : Word) : Sample :=
  match f with
  | .bgra8888 => unpackSampleBgra8888 u
  | .bgr565   => unpackSampleBgr565 u
  | .bgra5551 => unpackSampleBgra5551 u
  | .bgra4444 => unpackSampleBgra4444 u
  | .rgb565   => unpackSampleRgb565 p u

/-! ### PACK (R111 to R116) -/

/-- `zext_32` of a packed unit: bits 31:16 of a 16-bit one are 0 (R111). -/
def zext32 {w : Nat} (u : BitVec w) : Word := u.setWidth 32

/-- R112. -/
def packUnitBgra8888 (x : Sample) : Word := zext32 (reduce 8 x.a ++ reduce 8 x.r ++ reduce 8 x.g ++ reduce 8 x.b)

/-- R113; the alpha is ignored. -/
def packUnitBgr565 (x : Sample) : Word := zext32 (reduce 5 x.r ++ reduce 6 x.g ++ reduce 5 x.b)

/-- R114. -/
def packUnitBgra5551 (x : Sample) : Word := zext32 (reduce 1 x.a ++ reduce 5 x.r ++ reduce 5 x.g ++ reduce 5 x.b)

/-- R115. -/
def packUnitBgra4444 (x : Sample) : Word := zext32 (reduce 4 x.a ++ reduce 4 x.r ++ reduce 4 x.g ++ reduce 4 x.b)

/-- R116 under `RGB565_LAYOUT`; the alpha is ignored. -/
def packUnitRgb565 (p : Params) (x : Sample) : Word :=
  match p.rgb565Layout with
  | .rHigh => zext32 (reduce 5 x.r ++ reduce 6 x.g ++ reduce 5 x.b)
  | .rLow => zext32 (reduce 5 x.b ++ reduce 6 x.g ++ reduce 5 x.r)

/-- `pack(fmt, s)` (R111). -/
def packUnit (p : Params) (f : PackedFormat) (x : Sample) : Word :=
  match f with
  | .bgra8888 => packUnitBgra8888 x
  | .bgr565   => packUnitBgr565 x
  | .bgra5551 => packUnitBgra5551 x
  | .bgra4444 => packUnitBgra4444 x
  | .rgb565   => packUnitRgb565 p x

/-! ### The commands -/

/-- `(RES_R, RES_G, RES_B, RES_A) <- unpack(fmt, UNIT)` (R119). -/
def unpackCommandOf (f : PackedFormat) (s : State) : Host.Outcome State Fault Refusal :=
  .next (s.setRes (unpackSample s.params f s.unit))

/-- `UNIT <- zext_32(pack(fmt, (ARG_R, ARG_G, ARG_B, ARG_A)))` (R111). -/
def packCommandOf (f : PackedFormat) (s : State) : Host.Outcome State Fault Refusal :=
  .next (s.setUnit (packUnit s.params f s.arg))

/-- UNPACK.BGRA8888 (R104). -/
def execUnpackBgra8888 (s : State) : Host.Outcome State Fault Refusal := unpackCommandOf .bgra8888 s

/-- UNPACK.BGR565 (R105). -/
def execUnpackBgr565 (s : State) : Host.Outcome State Fault Refusal := unpackCommandOf .bgr565 s

/-- UNPACK.BGRA5551 (R106). -/
def execUnpackBgra5551 (s : State) : Host.Outcome State Fault Refusal := unpackCommandOf .bgra5551 s

/-- UNPACK.BGRA4444 (R107). -/
def execUnpackBgra4444 (s : State) : Host.Outcome State Fault Refusal := unpackCommandOf .bgra4444 s

/-- UNPACK.RGB565 (R108). -/
def execUnpackRgb565 (s : State) : Host.Outcome State Fault Refusal := unpackCommandOf .rgb565 s

/-- PACK.BGRA8888 (R112). -/
def execPackBgra8888 (s : State) : Host.Outcome State Fault Refusal := packCommandOf .bgra8888 s

/-- PACK.BGR565 (R113). -/
def execPackBgr565 (s : State) : Host.Outcome State Fault Refusal := packCommandOf .bgr565 s

/-- PACK.BGRA5551 (R114). -/
def execPackBgra5551 (s : State) : Host.Outcome State Fault Refusal := packCommandOf .bgra5551 s

/-- PACK.BGRA4444 (R115). -/
def execPackBgra4444 (s : State) : Host.Outcome State Fault Refusal := packCommandOf .bgra4444 s

/-- PACK.RGB565 (R116). -/
def execPackRgb565 (s : State) : Host.Outcome State Fault Refusal := packCommandOf .rgb565 s

end Sys2Proof.Machine
end

