-- ==== Sys2Proof/Machine/Block.lean ====
section
/-! DEFINITION. The block decoder (41_block_decoder.md): one pixel of a DXT1, DXT3 or DXT5 block, and BLKPIX. A block is
a byte string `k` as it lies in the store or in `BLK` (30_encoding.md R77 to R79). -/

namespace Sys2Proof.Machine

/-- The linear pixel number `p = 4*ly + lx` (00_scope.md R16). -/
def pixelNumber (lx ly : Fin 4) : Nat := 4 * ly.val + lx.val

/-! ### The colour block (R132 to R137) -/

/-- `c0raw = LE_2(k[0..1])` (R132). -/
def c0raw (k : List Byte) : BitVec 16 := leBits 16 (k.take 2)

/-- `c1raw = LE_2(k[2..3])` (R132). -/
def c1raw (k : List Byte) : BitVec 16 := leBits 16 ((k.drop 2).take 2)

/-- `grid = LE_4(k[4..7])` (R132). -/
def indexGrid (k : List Byte) : Word := leBits 32 ((k.drop 4).take 4)

/-- `cidx = (grid >> 2p) & 3` (R132). -/
def colourIndex (k : List Byte) (lx ly : Fin 4) : Nat := (indexGrid k).toNat >>> (2 * pixelNumber lx ly) % 4

/-- An endpoint decoded as RGB565 (R133); its alpha is not used. -/
def endpoint (p : Params) (raw : BitVec 16) : Sample := unpackSampleRgb565 p (raw.setWidth 32)

/-- One channel of a pixel from the same channel of the two endpoints (R135): exact sums, floor division (R137).
`four` is the mode `c0raw > c1raw` (R134). -/
def blendChannel (four : Bool) (cidx : Nat) (e0 e1 : Channel) : Channel :=
  match cidx with
  | 0 => e0
  | 1 => e1
  | 2 => if four then BitVec.ofNat 16 ((2 * e0.toNat + e1.toNat) / 3) else BitVec.ofNat 16 ((e0.toNat + e1.toNat) / 2)
  | _ => if four then BitVec.ofNat 16 ((e0.toNat + 2 * e1.toNat) / 3) else 0

/-- `dxt_rgb(k, lx, ly)` of a colour block of 8 bytes (R135), with the opaque alpha of R136. -/
def dxtColour (p : Params) (k : List Byte) (lx ly : Fin 4) : Sample :=
  let four := decide ((c1raw k).toNat < (c0raw k).toNat)
  let cidx := colourIndex k lx ly
  let e0 := endpoint p (c0raw k)
  let e1 := endpoint p (c1raw k)
  ⟨blendChannel four cidx e0.r e1.r, blendChannel four cidx e0.g e1.g, blendChannel four cidx e0.b e1.b, 0xFFFF⟩

/-! ### Alpha (R138, R139) -/

/-- `dxt3_alpha(k, lx, ly)`: the 4-bit alpha of the pixel, widened (R138). -/
def dxt3Alpha (k : List Byte) (lx ly : Fin 4) : Channel :=
  expand 4 (BitVec.ofNat 4 ((leBits 64 (k.take 8)).toNat >>> (4 * pixelNumber lx ly)))

/-- `iword = LE_6(k[2..7])` (R139). -/
def alphaIndexWord (k : List Byte) : BitVec 48 := leBits 48 ((k.drop 2).take 6)

/-- `aidx = (iword >> 3p) & 7` (R139). -/
def alphaIndex (k : List Byte) (lx ly : Fin 4) : Nat := (alphaIndexWord k).toNat >>> (3 * pixelNumber lx ly) % 8

/-- The alpha an index selects between two widened anchors (R139). -/
def blendAlpha (aidx : Nat) (a0 a1 : Channel) : Channel :=
  if aidx = 0 then a0
  else if aidx = 1 then a1
  else if a1.toNat < a0.toNat then BitVec.ofNat 16 (((7 - (aidx - 1)) * a0.toNat + (aidx - 1) * a1.toNat) / 7)
  else if aidx ≤ 5 then BitVec.ofNat 16 (((5 - (aidx - 1)) * a0.toNat + (aidx - 1) * a1.toNat) / 5)
  else if aidx = 6 then 0x0000
  else 0xFFFF

/-- `dxt5_alpha(k, lx, ly)`: the anchors are widened first (R139, 90_conflicts.md C2). -/
def dxt5Alpha (k : List Byte) (lx ly : Fin 4) : Channel :=
  blendAlpha (alphaIndex k lx ly) (expand 8 (k.getD 0 0)) (expand 8 (k.getD 1 0))

/-! ### The three pixel functions (R140 to R143, R147) -/

/-- `dxt1_pixel(k, lx, ly)`, of 8 bytes (R140); the alpha is opaque (R136). -/
def dxt1Pixel (p : Params) (k : List Byte) (lx ly : Fin 4) : Sample := dxtColour p (k.take 8) lx ly

/-- `dxt3_pixel(k, lx, ly)`, of 16 bytes: colour from bytes 8 to 15 (R143), alpha from bytes 0 to 7 (R141). -/
def dxt3Pixel (p : Params) (k : List Byte) (lx ly : Fin 4) : Sample :=
  { dxtColour p (k.drop 8) lx ly with a := dxt3Alpha k lx ly }

/-- `dxt5_pixel(k, lx, ly)`, of 16 bytes: colour from bytes 8 to 15 (R143), alpha from bytes 0 to 7 (R142). -/
def dxt5Pixel (p : Params) (k : List Byte) (lx ly : Fin 4) : Sample :=
  { dxtColour p (k.drop 8) lx ly with a := dxt5Alpha k lx ly }

/-- The pixel function of a block format (42_pixel_buffer.md R172). -/
def blockPixel (p : Params) (f : BlockFormat) (k : List Byte) (lx ly : Fin 4) : Sample :=
  match f with
  | .dxt1 => dxt1Pixel p k lx ly
  | .dxt3 => dxt3Pixel p k lx ly
  | .dxt5 => dxt5Pixel p k lx ly

/-! ### The commands -/

/-- BLKPIX of a block format (R140 to R142): refused unless both local coordinates are in `[0, 4)` (R146). -/
def blkpixCommandOf (f : BlockFormat) (s : State) : Host.Outcome State Fault Refusal :=
  match localCoord s.x, localCoord s.y with
  | some lx, some ly => .next (s.setRes (blockPixel s.params f (s.blockBytes (blockUnitSize f)) lx ly))
  | _, _ => .next (refuseCommand s)

/-- BLKPIX.DXT1 (R140). -/
def execBlkpixDxt1 (s : State) : Host.Outcome State Fault Refusal := blkpixCommandOf .dxt1 s

/-- BLKPIX.DXT3 (R141). -/
def execBlkpixDxt3 (s : State) : Host.Outcome State Fault Refusal := blkpixCommandOf .dxt3 s

/-- BLKPIX.DXT5 (R142). -/
def execBlkpixDxt5 (s : State) : Host.Outcome State Fault Refusal := blkpixCommandOf .dxt5 s

end Sys2Proof.Machine
end

