-- ==== Sys2Proof/Machine/PixelBuffer.lean ====
section
/-! DEFINITION. The pixel buffer commands (42_pixel_buffer.md): AT and SET. -/

namespace Sys2Proof.Machine

/-- The sample a unit's bytes decode to at pixel `(x, y)`: the packed path (R171) or the block path (R172). -/
def unitSample (p : Params) (f : PixelFormat) (k : List Byte) (x y : Int) : Sample :=
  match f with
  | .packed pf => unpackSample p pf (leBits 32 k)
  | .block bf => blockPixel p bf k (coordInBlock x) (coordInBlock y)

/-- `at(x, y)` on a level: the zero sample outside the rectangle (R166, R173), else the decoded unit; nothing where
MemRead is not defined. -/
def sampleAt (p : Params) (m : Level) (x y : Int) : Option Sample :=
  if inRect m x y then (memRead m (offsetOf m x y) (unitSize m.fmt)).map fun k => unitSample p m.fmt k x y
  else some Sample.zero

/-- AT (R170): refused without a level (R174). -/
def execAt (s : State) : Host.Outcome State Fault Refusal :=
  match s.selected with
  | none => .next (refuseCommand s)
  | some m =>
    match sampleAt s.params m s.x s.y with
    | some v => .next (s.setRes v)
    | none => .fault .storeAccess

/-- The level after `set(x, y, v)` on a packed level, inside the rectangle (R175 step 5); nothing where MemWrite is not
defined. -/
def levelSet (p : Params) (m : Level) (f : PackedFormat) (x y : Int) (v : Sample) : Option Level :=
  memWrite m (offsetOf m x y) (bytesLE (packedUnitSize f) (packUnit p f v))

/-- SET on a packed level: a no-op outside the rectangle (R166, R175 steps 4 and 5). -/
def setPacked (m : Level) (f : PackedFormat) (s : State) : Host.Outcome State Fault Refusal :=
  if inRect m s.x s.y then
    match levelSet s.params m f s.x s.y s.arg with
    | some m' => .next (s.setSelected m')
    | none => .fault .storeAccess
  else .next s

/-- SET (R175): refused without a level (R174) and on a block format (R176). -/
def execSet (s : State) : Host.Outcome State Fault Refusal :=
  match s.selected with
  | none => .next (refuseCommand s)
  | some m =>
    match m.fmt with
    | .block _ => .next (refuseCommand s)
    | .packed f => setPacked m f s

end Sys2Proof.Machine
end

