-- ==== Sys2Proof/Machine/Dispatch.lean ====
section
/-! DEFINITION. One arm per command of 30_encoding.md R84. -/

namespace Sys2Proof.Machine

def exec (i : Instr) (s : State) : Host.Outcome State Fault Refusal :=
  match i with
  | .parse => Sys2Proof.Machine.execParse s
  | .probe => Sys2Proof.Machine.execProbe s
  | .atPixel => Sys2Proof.Machine.execAt s
  | .setPixel => Sys2Proof.Machine.execSet s
  | .unpackBgra8888 => Sys2Proof.Machine.execUnpackBgra8888 s
  | .unpackBgr565 => Sys2Proof.Machine.execUnpackBgr565 s
  | .unpackBgra5551 => Sys2Proof.Machine.execUnpackBgra5551 s
  | .unpackBgra4444 => Sys2Proof.Machine.execUnpackBgra4444 s
  | .unpackRgb565 => Sys2Proof.Machine.execUnpackRgb565 s
  | .packBgra8888 => Sys2Proof.Machine.execPackBgra8888 s
  | .packBgr565 => Sys2Proof.Machine.execPackBgr565 s
  | .packBgra5551 => Sys2Proof.Machine.execPackBgra5551 s
  | .packBgra4444 => Sys2Proof.Machine.execPackBgra4444 s
  | .packRgb565 => Sys2Proof.Machine.execPackRgb565 s
  | .blkpixDxt1 => Sys2Proof.Machine.execBlkpixDxt1 s
  | .blkpixDxt3 => Sys2Proof.Machine.execBlkpixDxt3 s
  | .blkpixDxt5 => Sys2Proof.Machine.execBlkpixDxt5 s

end Sys2Proof.Machine
end

