-- ==== Sys2Proof/Machine/Port.lean ====
section
/-! DEFINITION. The register port (10_state.md R22, R34 to R37) and the host script (30_encoding.md R90, R91). -/

namespace Sys2Proof.Machine

/-! ### The register map (R36) -/

/-- The register of a number; nothing for an unimplemented one. -/
def regOfNumber (n : Nat) : Option Reg :=
  match n with
  | 0x00 => some .cmd
  | 0x01 => some .status
  | 0x02 => some .pos
  | 0x03 => some .nlev
  | 0x04 => some .mipCnt
  | 0x05 => some .outW
  | 0x06 => some .outH
  | 0x07 => some .outDepth
  | 0x10 => some .selLevel
  | 0x11 => some .argX
  | 0x12 => some .argY
  | 0x13 => some .argR
  | 0x14 => some .argG
  | 0x15 => some .argB
  | 0x16 => some .argA
  | 0x17 => some .resR
  | 0x18 => some .resG
  | 0x19 => some .resB
  | 0x1A => some .resA
  | 0x1B => some .unit
  | 0x1C => some .blk
  | 0x1D => some .stAddr
  | 0x1E => some .stData
  | 0x40 => some .lvFmt
  | 0x41 => some .lvMinX
  | 0x42 => some .lvMinY
  | 0x43 => some .lvW
  | 0x44 => some .lvH
  | 0x45 => some .lvStride
  | 0x46 => some .lvLen
  | n => if h : 0x20 ≤ n ∧ n ≤ 0x3E then some (.hdrw ⟨n - 0x20, by omega⟩) else none

/-- The number of a register. -/
def regNumber : Reg → Nat
  | .cmd => 0x00
  | .status => 0x01
  | .pos => 0x02
  | .nlev => 0x03
  | .mipCnt => 0x04
  | .outW => 0x05
  | .outH => 0x06
  | .outDepth => 0x07
  | .selLevel => 0x10
  | .argX => 0x11
  | .argY => 0x12
  | .argR => 0x13
  | .argG => 0x14
  | .argB => 0x15
  | .argA => 0x16
  | .resR => 0x17
  | .resG => 0x18
  | .resB => 0x19
  | .resA => 0x1A
  | .unit => 0x1B
  | .blk => 0x1C
  | .stAddr => 0x1D
  | .stData => 0x1E
  | .hdrw i => 0x20 + i.val
  | .lvFmt => 0x40
  | .lvMinX => 0x41
  | .lvMinY => 0x42
  | .lvW => 0x43
  | .lvH => 0x44
  | .lvStride => 0x45
  | .lvLen => 0x46

/-- The width of a register, in bits. -/
def regWidth : Reg → Nat
  | .cmd => 8
  | .status => 16
  | .pos => 64
  | .nlev => 32
  | .mipCnt => 32
  | .outW => 32
  | .outH => 32
  | .outDepth => 8
  | .selLevel => 32
  | .argX => 64
  | .argY => 64
  | .argR => 16
  | .argG => 16
  | .argB => 16
  | .argA => 16
  | .resR => 16
  | .resG => 16
  | .resB => 16
  | .resA => 16
  | .unit => 32
  | .blk => 128
  | .stAddr => 64
  | .stData => 8
  | .hdrw _ => 32
  | .lvFmt => 3
  | .lvMinX => 64
  | .lvMinY => 64
  | .lvW => 32
  | .lvH => 32
  | .lvStride => 35
  | .lvLen => 67

/-! ### Reading (R34, R35, R37) -/

/-- A window register: a field of the selected level, 0 when there is none (R34). -/
def levelWindow (s : State) (field : Level → Nat) : Nat :=
  match s.selected with
  | some m => field m
  | none => 0

/-- `ST_DATA` of a level: the store byte at `ST_ADDR`, 0x00 past the store (R35). -/
def storeWindow (addr : DWord) (m : Level) : Byte :=
  if addr.toNat < m.len then Memory.read m.store addr.toNat else 0

/-- What a read of a register returns, its full width as an unsigned number (R22; log entry 12); `CMD` reads 0
(R24). -/
def readReg (r : Reg) (s : State) : Nat :=
  match r with
  | .cmd => 0
  | .status => (statusWord s).toNat
  | .pos => s.pos.toNat
  | .nlev => s.nlev % 2 ^ 32
  | .mipCnt => s.mipCnt.toNat
  | .outW => s.outW.toNat
  | .outH => s.outH.toNat
  | .outDepth => s.outDepth.toNat
  | .selLevel => s.selLevel.toNat
  | .argX => s.argX.toNat
  | .argY => s.argY.toNat
  | .argR => s.arg.r.toNat
  | .argG => s.arg.g.toNat
  | .argB => s.arg.b.toNat
  | .argA => s.arg.a.toNat
  | .resR => s.res.r.toNat
  | .resG => s.res.g.toNat
  | .resB => s.res.b.toNat
  | .resA => s.res.a.toNat
  | .unit => s.unit.toNat
  | .blk => s.blk.toNat
  | .stAddr => s.stAddr.toNat
  | .stData => levelWindow s fun m => (storeWindow s.stAddr m).toNat
  | .hdrw i => s.hdrw[i.val].toNat
  | .lvFmt => levelWindow s fun m => (formatCode m.fmt).toNat
  | .lvMinX => levelWindow s fun m => m.minX.toNat
  | .lvMinY => levelWindow s fun m => m.minY.toNat
  | .lvW => levelWindow s fun m => m.w.toNat
  | .lvH => levelWindow s fun m => m.h.toNat
  | .lvStride => levelWindow s fun m => m.stride % 2 ^ 35
  | .lvLen => levelWindow s fun m => m.len % 2 ^ 67

/-- The value `RD n` returns; an unimplemented number reads 0 (R36). -/
def portRead (n : Nat) (s : State) : Nat :=
  match regOfNumber n with
  | some r => readReg r s
  | none => 0

/-! ### Writing (R22, R36, R37) -/

/-- Write a register other than `CMD`: a read-write register takes the value modulo 2^width, a read-only one ignores
the write. -/
def writeReg (r : Reg) (v : Int) (s : State) : State :=
  match r with
  | .selLevel => { s with selLevel := BitVec.ofInt 32 v }
  | .argX => { s with argX := BitVec.ofInt 64 v }
  | .argY => { s with argY := BitVec.ofInt 64 v }
  | .argR => { s with arg := { s.arg with r := BitVec.ofInt 16 v } }
  | .argG => { s with arg := { s.arg with g := BitVec.ofInt 16 v } }
  | .argB => { s with arg := { s.arg with b := BitVec.ofInt 16 v } }
  | .argA => { s with arg := { s.arg with a := BitVec.ofInt 16 v } }
  | .unit => { s with unit := BitVec.ofInt 32 v }
  | .blk => { s with blk := BitVec.ofInt 128 v }
  | .stAddr => { s with stAddr := BitVec.ofInt 64 v }
  | .cmd | .status | .pos | .nlev | .mipCnt | .outW | .outH | .outDepth => s
  | .resR | .resG | .resB | .resA | .stData | .hdrw _ => s
  | .lvFmt | .lvMinX | .lvMinY | .lvW | .lvH | .lvStride | .lvLen => s

/-! ### The host script (R90) -/

/-- What the host's next action comes to: it is settled in the port, or it issues a command word. -/
inductive Fetched where
  | settled (s : State)
  | command (w : Byte) (s : State)
  deriving DecidableEq, Repr

/-- `WR n, v`: a write to `CMD` issues the command, every other write is settled here (R24, R37). -/
def portWrite (n : Nat) (v : Int) (s : State) : Fetched :=
  match regOfNumber n with
  | some .cmd => .command (BitVec.ofInt 8 v) s
  | some r => .settled (writeReg r v s)
  | none => .settled s

/-- One action of the host. -/
def hostAct (a : HostAction) (s : State) : Fetched :=
  match a with
  | .wr n v => portWrite n v s
  | .rd n => .settled { s with observed := s.observed ++ [portRead n s] }
  | .stream d => .settled { s with input := d }
  | .reset => .settled (hostReset s)

/-- Take the host's next action; with none left the unit rests (R261; log entry 2). -/
def fetch (s : State) : Fetched :=
  match s.script with
  | [] => .settled s
  | a :: rest => hostAct a { s with script := rest }

/-- The transaction that issues an instruction's word of `nbits` bits: `WR CMD, w`. -/
def commandAction (nbits w : Nat) : HostAction := .wr 0x00 ((w % 2 ^ nbits : Nat) : Int)

/-! ### Pseudo-commands (R91) -/

/-- `WR r, v` by the register's name. -/
def wrReg (r : Reg) (v : Int) : HostAction := .wr (regNumber r) v

/-- The mnemonic line of a command: `WR CMD, <value of R84>`. -/
def wrCommand (word : Byte) : HostAction := .wr (regNumber .cmd) word.toNat

/-- `AT l, x, y`. -/
def scriptAt (l x y : Int) : List HostAction :=
  [wrReg .selLevel l, wrReg .argX x, wrReg .argY y, wrCommand 0x03]

/-- The four channel writes of SET and PACK. -/
def scriptArgs (r g b a : Int) : List HostAction :=
  [wrReg .argR r, wrReg .argG g, wrReg .argB b, wrReg .argA a]

/-- `SET l, x, y, r, g, b, a`. -/
def scriptSet (l x y r g b a : Int) : List HostAction :=
  [wrReg .selLevel l, wrReg .argX x, wrReg .argY y] ++ scriptArgs r g b a ++ [wrCommand 0x04]

/-- `UNPACK.f u`, `word` the command word of `UNPACK.f`. -/
def scriptUnpack (word : Byte) (u : Int) : List HostAction := [wrReg .unit u, wrCommand word]

/-- `PACK.f r, g, b, a`, `word` the command word of `PACK.f`. -/
def scriptPack (word : Byte) (r g b a : Int) : List HostAction := scriptArgs r g b a ++ [wrCommand word]

/-- `BLKPIX.f lx, ly`, `word` the command word of `BLKPIX.f`. -/
def scriptBlkpix (word : Byte) (lx ly : Int) : List HostAction := [wrReg .argX lx, wrReg .argY ly, wrCommand word]

/-- `RDRES`. -/
def scriptRdRes : List HostAction := [.rd 0x17, .rd 0x18, .rd 0x19, .rd 0x1A]

end Sys2Proof.Machine
end

