-- ==== Sys2Proof/Machine/Step.lean ====
section
/-! DEFINITION. One step: the host's next action, and the command it issues if it issues one. A command is one step
(70_reset_and_hazards.md R276). -/

namespace Sys2Proof.Machine

/-- One step. A legal command word runs its instruction; an illegal one is refused with cmderr (30_encoding.md R86). -/
def step (s : State) : Host.Outcome State Fault Refusal :=
  match fetch s with
  | .settled t => .next t
  | .command w t =>
    match decodeCommand w with
    | .ok i => exec i t
    | .error _ => .next (refuseCommand t)

/-- `s` with the write of that command word as the host's next transaction (log entry 2). -/
def State.withFetchWord (s : State) (nbits w : Nat) : State :=
  { s with script := commandAction nbits w :: s.script }

end Sys2Proof.Machine
end

