-- ==== Sys2Proof/Safety.lean ====
section
/-! DEFINITION. What a safe run is, in the terms the statements use: the invariants of the state, what each command may
write, the decode call as one function of its stream, and the shapes of results the statements name. -/

namespace Sys2Proof.Machine

/-! ### Invariants (10_state.md R41) -/

/-- A level as the unit builds it: origin 0 (42_pixel_buffer.md R162), stride and length by R163 to R165, its store in
canonical form and inside the length. -/
abbrev Level.Ok (m : Level) : Prop :=
  m.minX = 0 ∧ m.minY = 0 ∧ m.stride = strideOf m.fmt m.w.toNat ∧ m.len = lengthOf m.fmt m.w.toNat m.h.toNat ∧
    Memory.wf m.store = true ∧ Memory.below m.len m.store = true

/-- R41 (a) to (e). -/
abbrev State.Inv (s : State) : Prop :=
  (s.phase = .idle ∨ s.phase = .done ∨ s.phase = .failed) ∧
  (s.err ≠ none ↔ s.phase = .failed) ∧
  (s.mip ≠ [] → s.phase = .done ∧ s.probe = false) ∧
  (∀ m ∈ s.mip, s.fmt = some m.fmt ∧ m.Ok) ∧
  s.mip.length ≤ s.mipCnt.toNat

/-- What a finished call leaves: after a PARSE every level of the chain and a format (R28, 43_container_parser.md R209),
after a PROBE no format (R193); no level of format RGB565 (R30); level `i` has the dimensions of R206. -/
abbrev State.ChainOk (s : State) : Prop :=
  (s.phase = .done → s.probe = false → s.mip.length = s.mipCnt.toNat ∧ s.fmt ≠ none) ∧
  (s.phase = .done → s.probe = true → s.fmt = none) ∧
  s.fmt ≠ some (.packed .rgb565) ∧
  ∀ i : Fin s.mip.length,
    s.mip[i].w = mipDim s.params s.hWidth i.val ∧ s.mip[i].h = mipDim s.params s.hHeight i.val

/-! ### What a command may write (30_encoding.md R85) -/

/-- The two decode calls. -/
def isDecodeCall : Instr → Bool
  | .parse | .probe => true
  | _ => false

/-- SET wrote one unit: `t` is `s` with the store of the selected level changed at the bytes of the unit that holds the
pixel (42_pixel_buffer.md R167, R175), and nowhere else. -/
def writesOneUnit (s t : State) : Prop :=
  ∃ m st, s.mip[s.selLevel.toNat]? = some m ∧
    t = { s with mip := s.mip.set s.selLevel.toNat { m with store := st } } ∧
    ∀ a : Nat, (a < offsetOf m s.x s.y ∨ offsetOf m s.x s.y + unitSize m.fmt ≤ a) →
      Memory.read st a = Memory.read m.store a

/-- `t` differs from `s` only in what the command's row of R85 lets it write: the command's registers, for SET one unit
of the selected level's store; or the command was refused, and `t` differs in `CMDERR` alone. -/
def writesOnlyRow (i : Instr) (s t : State) : Prop :=
  match i with
  | .parse | .probe =>
    t = { s with phase := t.phase, err := t.err, fmt := t.fmt, probe := t.probe, pos := t.pos, levelIdx := t.levelIdx,
                 mip := t.mip, mipCnt := t.mipCnt, outW := t.outW, outH := t.outH, outDepth := t.outDepth,
                 hdrw := t.hdrw }
  | .atPixel => t = { s with res := t.res } ∨ t = { s with cmdErr := true }
  | .setPixel => t = s ∨ writesOneUnit s t ∨ t = { s with cmdErr := true }
  | .unpackBgra8888 | .unpackBgr565 | .unpackBgra5551 | .unpackBgra4444 | .unpackRgb565 => t = { s with res := t.res }
  | .packBgra8888 | .packBgr565 | .packBgra5551 | .packBgra4444 | .packRgb565 => t = { s with unit := t.unit }
  | .blkpixDxt1 | .blkpixDxt3 | .blkpixDxt5 => t = { s with res := t.res } ∨ t = { s with cmdErr := true }

/-- An illegal command word, by the six kinds of R86. -/
def illegalWord (w : Byte) : Bool :=
  let op := (w.extractLsb' 0 4).toNat
  let fmt := (w.extractLsb' 4 3).toNat
  let z := (w.extractLsb' 7 1).toNat
  op == 0 || (8 ≤ op && op ≤ 15) || z == 1 || (fmt != 0 && 1 ≤ op && op ≤ 4) ||
    (5 ≤ fmt && fmt ≤ 7 && 5 ≤ op && op ≤ 6) || (fmt ≤ 4 && op == 7)

/-- A coordinate is a local block coordinate (41_block_decoder.md R146). -/
abbrev inBlock (v : Int) : Prop := 0 ≤ v ∧ v < 4

/-- Why a legal command is refused in a state: the operand causes of 60_exceptions.md R241. -/
def refusedFor (i : Instr) (s : State) : Prop :=
  match i with
  | .atPixel => s.nlev ≤ s.selLevel.toNat
  | .setPixel => s.nlev ≤ s.selLevel.toNat ∨ ∃ m f, s.mip[s.selLevel.toNat]? = some m ∧ m.fmt = .block f
  | .blkpixDxt1 | .blkpixDxt3 | .blkpixDxt5 => ¬ (inBlock s.argX.toInt ∧ inBlock s.argY.toInt)
  | _ => False

/-! ### Results in the spec's own terms -/

/-- The channel `c` is the field of `u` whose top bit is `hi` and whose width is `w`, replicated: bit `15 - i` of the
channel is bit `w - 1 - (i mod w)` of the field (40_packed_codec.md R101). -/
def widensField (w hi : Nat) (u : Word) (c : Channel) : Prop :=
  ∀ i, i < 16 → c.getLsbD (15 - i) = u.getLsbD (hi - i % w)

/-- The field of `u` whose top bit is `hi` and whose width is `w` holds the top `w` bits of the channel (R110). -/
def holdsReduced (w hi : Nat) (c : Channel) (u : Word) : Prop :=
  ∀ i, i < w → u.getLsbD (hi - i) = c.getLsbD (15 - i)

/-- The colour of R135 on one channel, over the naturals: `four` is `c0raw > c1raw`. -/
def interpolatesTo (four : Prop) (cidx e0 e1 v : Nat) : Prop :=
  (cidx = 0 → v = e0) ∧ (cidx = 1 → v = e1) ∧
  (cidx = 2 → four → v = (2 * e0 + e1) / 3) ∧ (cidx = 2 → ¬ four → v = (e0 + e1) / 2) ∧
  (cidx = 3 → four → v = (e0 + 2 * e1) / 3) ∧ (cidx = 3 → ¬ four → v = 0)

/-- The three colour channels of `v` at linear pixel `p` of the 64-bit colour block `k` (30_encoding.md R77,
41_block_decoder.md R132 to R135): byte `i` of the block is `k[8i+7:8i]`. -/
def coloursBlock (ps : Params) (k : BitVec 64) (p : Nat) (v : Sample) : Prop :=
  let c0 := k.extractLsb' 0 16
  let c1 := k.extractLsb' 16 16
  let cidx := (k.extractLsb' (32 + 2 * p) 2).toNat
  let e0 := unpackSample ps .rgb565 (c0.setWidth 32)
  let e1 := unpackSample ps .rgb565 (c1.setWidth 32)
  interpolatesTo (c1.toNat < c0.toNat) cidx e0.r.toNat e1.r.toNat v.r.toNat ∧
    interpolatesTo (c1.toNat < c0.toNat) cidx e0.g.toNat e1.g.toNat v.g.toNat ∧
    interpolatesTo (c1.toNat < c0.toNat) cidx e0.b.toNat e1.b.toNat v.b.toNat

/-- The alpha of R139 over the naturals, from the widened anchors. -/
def alphaSelects (aidx a0 a1 v : Nat) : Prop :=
  (aidx = 0 → v = a0) ∧ (aidx = 1 → v = a1) ∧
  (2 ≤ aidx → a1 < a0 → v = ((7 - (aidx - 1)) * a0 + (aidx - 1) * a1) / 7) ∧
  (2 ≤ aidx → aidx ≤ 5 → a0 ≤ a1 → v = ((5 - (aidx - 1)) * a0 + (aidx - 1) * a1) / 5) ∧
  (aidx = 6 → a0 ≤ a1 → v = 0) ∧ (aidx = 7 → a0 ≤ a1 → v = 0xFFFF)

/-- `in_rect` (42_pixel_buffer.md R161). -/
abbrev inRectangle (m : Level) (x y : Int) : Prop :=
  m.minX.toInt ≤ x ∧ x < m.minX.toInt + m.w.toNat ∧ m.minY.toInt ≤ y ∧ y < m.minY.toInt + m.h.toNat

/-- `n` bytes of a store from `off` on are the bytes of the value `u`, little-endian (20_memory.md R57). -/
def storeHolds {w : Nat} (st : Memory) (off n : Nat) (u : BitVec w) : Prop :=
  ∀ j, j < n → Memory.read st (off + j) = u.extractLsb' (8 * j) 8

/-- BLKPIX of a block format. -/
def blkpixOf : BlockFormat → Instr
  | .dxt1 => .blkpixDxt1
  | .dxt3 => .blkpixDxt3
  | .dxt5 => .blkpixDxt5

/-! ### The decode call as one function (43_container_parser.md R212) -/

/-- Header word `i` as it lies in the stream, a missing byte taken as 0x00 (R197): `LE_4` of stream bytes
`4+4i .. 7+4i`. -/
def streamWord (d : List Byte) (i : Nat) : Word := leBits 32 ((d.drop (4 + 4 * i)).take 4)

/-- What R212's function returns: `Fail`, `Probe` or `Ok`. -/
inductive CallResult where
  | failed (e : DecodeError) (pos : Nat)
  | probed (w h : Word) (depth : Byte) (pos : Nat)
  | parsed (f : PixelFormat) (levels : List Level) (pos : Nat)
  deriving DecidableEq, Repr

/-- The loop of R212: `n` levels still to build, the next one `i`. -/
def callLevels (p : Params) (f : PixelFormat) (d : List Byte) : Nat → Nat → Nat → List Level → CallResult
  | 0, _, pos, acc => .parsed f acc pos
  | n + 1, i, pos, acc =>
    let m := newLevel f (mipDim p (streamWord d 3) i) (mipDim p (streamWord d 2) i)
    if d.length - pos < m.len then .failed .truncatedData d.length
    else callLevels p f d n (i + 1) (pos + m.len) (acc ++ [fillLevel m ((d.drop pos).take m.len)])

/-- The effective mip count of the stream (R199). -/
def streamMipCount (p : Params) (d : List Byte) : Word :=
  if streamWord d 1 &&& p.ddsdMipMapCount ≠ 0 then streamWord d 6 else 1

/-- Every flag that R198 requires is set in the stream's header. -/
abbrev streamFlagsPresent (p : Params) (d : List Byte) : Prop :=
  streamWord d 1 &&& (p.ddsdHeight ||| p.ddsdWidth ||| p.ddsdPixelFormat) =
    p.ddsdHeight ||| p.ddsdWidth ||| p.ddsdPixelFormat

/-- The format of the stream's descriptor (R201). -/
def streamFormat (p : Params) (d : List Byte) : Option PixelFormat :=
  classify p (streamWord d 19) (streamWord d 20) (streamWord d 22) (streamWord d 23) (streamWord d 24) (streamWord d 25)

/-- The bytes of the first `n` levels of a stream whose format is `f` (R206, R165). -/
def levelBytes (p : Params) (d : List Byte) (f : PixelFormat) : Nat → Nat
  | 0 => 0
  | n + 1 => levelBytes p d f n +
      lengthOf f (mipDim p (streamWord d 3) n).toNat (mipDim p (streamWord d 2) n).toNat

/-- A PARSE of the stream exceeds no bounded capacity (R210): its mip count and the bytes of its levels are within
`MAX_MIP_LEVELS` and `STORE_BYTES` where those are bounded. -/
def callFits (p : Params) (d : List Byte) : Prop :=
  (∀ b, p.maxMipLevels = some b → (streamMipCount p d).toNat ≤ b) ∧
  ∀ f b, streamFormat p d = some f → p.storeBytes = some b → levelBytes p d f (streamMipCount p d).toNat ≤ b

/-- `parse(IN, headerOnly)` (R212), the capacities unbounded. -/
def callFunction (p : Params) (d : List Byte) (headerOnly : Bool) : CallResult :=
  if d.length < 4 ∨ d.take 4 ≠ [0x44, 0x44, 0x53, 0x20] then .failed .badMagic (min 4 d.length)
  else if d.length < 128 then .failed .badHeader d.length
  else if streamWord d 0 ≠ 124 then .failed .badHeader 128
  else if streamWord d 20 = 0x30315844 then .failed .unsupportedExtension 128
  else if ¬ streamFlagsPresent p d then .failed .missingFields 128
  else if headerOnly then .probed (streamWord d 3) (streamWord d 2) 16 128
  else match streamFormat p d with
    | none => .failed .unsupportedFormat 128
    | some f => callLevels p f d (streamMipCount p d).toNat 0 128 []

/-- The state after the command, read off the function's value (R212). -/
def readsOff (t : State) : CallResult → Prop
  | .failed e pos => t.phase = .failed ∧ t.err = some e ∧ t.pos.toNat = pos ∧ t.mip = []
  | .probed w h depth pos =>
    t.phase = .done ∧ t.err = none ∧ t.pos.toNat = pos ∧ t.mip = [] ∧ t.levelIdx = 0 ∧ t.fmt = none ∧ t.outW = w ∧
      t.outH = h ∧ t.outDepth = depth
  | .parsed f levels pos =>
    t.phase = .done ∧ t.err = none ∧ t.pos.toNat = pos ∧ t.mip = levels ∧ t.fmt = some f ∧
      levels.length = t.mipCnt.toNat ∧ t.levelIdx = t.mipCnt

end Sys2Proof.Machine
end

