-- ==== Sys2Proof/Certificates/Slice0/Obligations.lean ====
section
/-! DEFINITION. The statements for the provers. Each cites the rules of spec/ it formalises; where a clause is the model's
own choice the docstring says so and names the log entry. -/

open Sys2Proof Sys2Proof.Machine

/-! ### Encoding, the port and the step -/

/-- R84: the seventeen legal words, each with its command, and no other; the decoder's acceptance test. -/
def Obligations.LegalCommandWords : Prop :=
  decodeCommand 0x01 = .ok .parse ∧ decodeCommand 0x02 = .ok .probe ∧ decodeCommand 0x03 = .ok .atPixel ∧
  decodeCommand 0x04 = .ok .setPixel ∧
  decodeCommand 0x05 = .ok .unpackBgra8888 ∧ decodeCommand 0x15 = .ok .unpackBgr565 ∧
  decodeCommand 0x25 = .ok .unpackBgra5551 ∧ decodeCommand 0x35 = .ok .unpackBgra4444 ∧
  decodeCommand 0x45 = .ok .unpackRgb565 ∧
  decodeCommand 0x06 = .ok .packBgra8888 ∧ decodeCommand 0x16 = .ok .packBgr565 ∧
  decodeCommand 0x26 = .ok .packBgra5551 ∧ decodeCommand 0x36 = .ok .packBgra4444 ∧
  decodeCommand 0x46 = .ok .packRgb565 ∧
  decodeCommand 0x57 = .ok .blkpixDxt1 ∧ decodeCommand 0x67 = .ok .blkpixDxt3 ∧ decodeCommand 0x77 = .ok .blkpixDxt5 ∧
  (∀ w i, decodeCommand w = .ok i →
    w ∈ ([0x01, 0x02, 0x03, 0x04, 0x05, 0x15, 0x25, 0x35, 0x45, 0x06, 0x16, 0x26, 0x36, 0x46, 0x57, 0x67, 0x77] :
      List Byte)) ∧
  ∀ w, (∃ i, decodeCommand w = .ok i) ↔ (commandFields w).wellFormed = true

/-- R83, R84: a word decodes to an instruction exactly when it is that instruction's encoding, so no bit of an encoding
is dropped and no word has two readings. -/
def Obligations.DecodeInvertsEncode : Prop :=
  ∀ i w, decodeCommand w = .ok i ↔ w = encode i

/-- R86: the illegal words are those of the six kinds, 239 of them; writing one to `CMD` sets `CMDERR` and changes
nothing else (the transaction itself leaves the host's script, log entry 2). -/
def Obligations.IllegalWordsRefused : Prop :=
  (∀ w, (∃ k, decodeCommand w = .error k) ↔ illegalWord w = true) ∧
  ((List.range 256).filter fun n => illegalWord (BitVec.ofNat 8 n)).length = 239 ∧
  ∀ s v rest, s.script = .wr 0x00 v :: rest → illegalWord (BitVec.ofInt 8 v) = true →
    step s = .next { s with script := rest, cmdErr := true }

/-- R22, R24: a write to `CMD`, register 0x00, issues the command whose encoding is the written value modulo 2^8; the
step runs that command on the state, the transaction taken off the host's script (log entry 2). -/
def Obligations.StepRunsDecodedCommand : Prop :=
  ∀ s v rest i, s.script = .wr 0x00 v :: rest → decodeCommand (BitVec.ofInt 8 v) = .ok i →
    step s = exec i { s with script := rest }

/-- R22, R37, R40, R51, R90, R261: a read adds the register's value to what the host observes; a stream line states the
input; the reset input replaces the unit's state and leaves the host's side (parameters, stream, script,
observations); a write to a register other than `CMD` is settled in the port; with no transaction left the unit
rests. The script, the observations and what a reset leaves of the host's side are the model's choice (log entry 2). -/
def Obligations.HostActionsSettleInPort : Prop :=
  (∀ s n rest, s.script = .rd n :: rest →
    step s = .next { s with script := rest, observed := s.observed ++ [portRead n s] }) ∧
  (∀ s d rest, s.script = .stream d :: rest → step s = .next { s with script := rest, input := d }) ∧
  (∀ s rest, s.script = .reset :: rest →
    step s = .next { State.reset with params := s.params, input := s.input, script := rest, observed := s.observed }) ∧
  (∀ s n v rest r, s.script = .wr n v :: rest → regOfNumber n = some r → r ≠ .cmd →
    step s = .next { writeReg r v s with script := rest }) ∧
  ∀ s, s.script = [] → step s = .next s

/-- R40: every piece of the unit's state after the reset input, whatever the state was before, and in the state the
model starts from. -/
def Obligations.ResetValues : Prop :=
  ∀ s t, t = hostReset s ∨ t = State.reset →
    t.phase = .idle ∧ t.err = none ∧ t.cmdErr = false ∧ t.fmt = none ∧ t.probe = false ∧ statusWord t = 0 ∧
    t.pos = 0 ∧ t.levelIdx = 0 ∧ t.nlev = 0 ∧ t.mipCnt = 0 ∧ t.outW = 0 ∧ t.outH = 0 ∧ t.outDepth = 0 ∧
    (∀ i (h : i < 31), t.hdrw[i] = 0) ∧ t.mip = [] ∧ t.selLevel = 0 ∧ t.stAddr = 0 ∧ t.argX = 0 ∧ t.argY = 0 ∧
    t.arg = ⟨0, 0, 0, 0⟩ ∧ t.res = ⟨0, 0, 0, 0⟩ ∧ t.unit = 0 ∧ t.blk = 0

/-- R36: number, width and access of every register of the map. A number has one register and a register one number; an
unlisted number reads 0 and ignores writes, and neither sets `CMDERR` (the state is unchanged); a read-write register
reads as what was written, modulo 2^width; a write to a read-only one is ignored; `CMD` takes a command and reads 0. -/
def Obligations.RegisterMapNumbers : Prop :=
  ([.cmd, .status, .pos, .nlev, .mipCnt, .outW, .outH, .outDepth] : List Reg).map (fun r => (regNumber r, regWidth r)) =
    [(0x00, 8), (0x01, 16), (0x02, 64), (0x03, 32), (0x04, 32), (0x05, 32), (0x06, 32), (0x07, 8)] ∧
  ([.selLevel, .argX, .argY, .argR, .argG, .argB, .argA] : List Reg).map (fun r => (regNumber r, regWidth r)) =
    [(0x10, 32), (0x11, 64), (0x12, 64), (0x13, 16), (0x14, 16), (0x15, 16), (0x16, 16)] ∧
  ([.resR, .resG, .resB, .resA, .unit, .blk, .stAddr, .stData] : List Reg).map (fun r => (regNumber r, regWidth r)) =
    [(0x17, 16), (0x18, 16), (0x19, 16), (0x1A, 16), (0x1B, 32), (0x1C, 128), (0x1D, 64), (0x1E, 8)] ∧
  ([.lvFmt, .lvMinX, .lvMinY, .lvW, .lvH, .lvStride, .lvLen] : List Reg).map (fun r => (regNumber r, regWidth r)) =
    [(0x40, 3), (0x41, 64), (0x42, 64), (0x43, 32), (0x44, 32), (0x45, 35), (0x46, 67)] ∧
  (∀ i : Fin 31, regNumber (.hdrw i) = 0x20 + i.val ∧ regWidth (.hdrw i) = 32) ∧
  (∀ r, regOfNumber (regNumber r) = some r) ∧
  (∀ n r, regOfNumber n = some r → regNumber r = n) ∧
  (∀ n, regOfNumber n = none ↔ (0x08 ≤ n ∧ n ≤ 0x0F) ∨ n = 0x1F ∨ n = 0x3F ∨ 0x47 ≤ n) ∧
  (∀ n s v, regOfNumber n = none → portRead n s = 0 ∧ portWrite n v s = .settled s) ∧
  (∀ r ∈ ([.selLevel, .argX, .argY, .argR, .argG, .argB, .argA, .unit, .blk, .stAddr] : List Reg), ∀ v s,
    ∃ t, portWrite (regNumber r) v s = .settled t ∧ (portRead (regNumber r) t : Int) = v % 2 ^ regWidth r) ∧
  (∀ r, r ∉ ([.cmd, .selLevel, .argX, .argY, .argR, .argG, .argB, .argA, .unit, .blk, .stAddr] : List Reg) → ∀ v s,
    portWrite (regNumber r) v s = .settled s) ∧
  ∀ v s, portWrite 0x00 v s = .command (BitVec.ofInt 8 v) s ∧ portRead 0x00 s = 0

/-- R22, R37: a write to a read-write register changes no other register that has storage, and no level; a read returns
the full width and has no effect on the unit: the step that takes it off the script (log entry 2) changes only the
observations. -/
def Obligations.RegistersHoldWhatWasWritten : Prop :=
  (∀ r ∈ ([.selLevel, .argX, .argY, .argR, .argG, .argB, .argA, .unit, .blk, .stAddr] : List Reg), ∀ v s,
    (writeReg r v s).mip = s.mip ∧
    ∀ r', r' ≠ r → r' ∉ ([.stData, .lvFmt, .lvMinX, .lvMinY, .lvW, .lvH, .lvStride, .lvLen] : List Reg) →
      portRead (regNumber r') (writeReg r v s) = portRead (regNumber r') s) ∧
  (∀ r s, portRead (regNumber r) s < 2 ^ regWidth r) ∧
  ∀ s n rest t, s.script = .rd n :: rest → step s = .next t → t = { s with script := rest, observed := t.observed }

/-- R25 to R27, R30, R231: the fields of `STATUS`, at their bits, and their codes. -/
def Obligations.StatusFields : Prop :=
  (∀ s, (statusWord s).extractLsb' 0 3 = phaseCode s.phase ∧
    (statusWord s).getLsbD 3 = false ∧
    (statusWord s).extractLsb' 4 3 = errField s.err ∧
    (statusWord s).getLsbD 7 = s.cmdErr ∧
    (statusWord s).getLsbD 8 = s.fmt.isSome ∧
    (statusWord s).extractLsb' 9 3 = fmtField s.fmt ∧
    (statusWord s).getLsbD 12 = s.probe ∧
    (statusWord s).extractLsb' 13 3 = 0) ∧
  [.idle, .readMagic, .readHeader, .validateFlags, .classify, .buildMip, .done, .failed].map phaseCode =
    [0, 1, 2, 3, 4, 5, 6, 7] ∧
  [none, some .badMagic, some .badHeader, some .unsupportedExtension, some .missingFields, some .unsupportedFormat,
    some .truncatedData].map errField = [0, 1, 2, 3, 4, 5, 6] ∧
  [none, some (.packed .bgra8888), some (.packed .bgr565), some (.packed .bgra5551), some (.packed .bgra4444),
    some (.packed .rgb565), some (.block .dxt1), some (.block .dxt3), some (.block .dxt5)].map fmtField =
    [0, 0, 1, 2, 3, 4, 5, 6, 7]

/-- R34, R35 with the numbers of R36: the windows show the fields of the level `SEL_LEVEL` selects (the signed ones as
their 64 bits) and the store byte at `ST_ADDR`, and 0 where there is none. -/
def Obligations.LevelWindows : Prop :=
  (∀ s m, s.mip[s.selLevel.toNat]? = some m →
    portRead 0x40 s = (formatCode m.fmt).toNat ∧ portRead 0x41 s = m.minX.toNat ∧ portRead 0x42 s = m.minY.toNat ∧
    portRead 0x43 s = m.w.toNat ∧ portRead 0x44 s = m.h.toNat ∧
    (m.Ok → portRead 0x45 s = m.stride ∧ portRead 0x46 s = m.len) ∧
    (s.stAddr.toNat < m.len → portRead 0x1E s = (Memory.read m.store s.stAddr.toNat).toNat) ∧
    (m.len ≤ s.stAddr.toNat → portRead 0x1E s = 0)) ∧
  ∀ s, s.nlev ≤ s.selLevel.toNat → ∀ n ∈ [0x40, 0x41, 0x42, 0x43, 0x44, 0x45, 0x46, 0x1E], portRead n s = 0

/-- R52: `StreamRead(n)` returns the next `min(n, bytes left)` bytes and advances `POS` by as many. -/
def Obligations.StreamReadConsumes : Prop :=
  ∀ s n, s.pos.toNat ≤ s.input.length → s.input.length < 2 ^ 64 →
    (streamTake n s).length = min n (s.input.length - s.pos.toNat) ∧
    (∀ i, i < (streamTake n s).length → (streamTake n s)[i]? = s.input[s.pos.toNat + i]?) ∧
    (streamAdvance n s).pos.toNat = s.pos.toNat + min n (s.input.length - s.pos.toNat) ∧
    streamAdvance n s = { s with pos := (streamAdvance n s).pos }

/-! ### The packed colour codec -/

/-- R101: bit `15 - i` of the expansion is bit `w - 1 - (i mod w)` of the field. -/
def Obligations.ExpandReplicatesField : Prop :=
  ∀ w ∈ [1, 4, 5, 6, 8], ∀ f : BitVec w, ∀ i, i < 16 → (expand w f).getLsbD (15 - i) = f.getLsbD (w - 1 - i % w)

/-- R102, R103, the spec's own inferences from R101: the closed forms, and the properties: end points, left inverse, strict monotony, and where the expansion
is the rounded linear rescale (twice the value is compared, so that rounding is to the nearest). -/
def Obligations.ExpandClosedForms : Prop :=
  (∀ f : BitVec 8, (expand 8 f).toNat = f.toNat * 0x0101) ∧
  (∀ f : BitVec 6, (expand 6 f).toNat = (f.toNat <<< 10) ||| (f.toNat <<< 4) ||| (f.toNat >>> 2)) ∧
  (∀ f : BitVec 5, (expand 5 f).toNat = (f.toNat <<< 11) ||| (f.toNat <<< 6) ||| (f.toNat <<< 1) ||| (f.toNat >>> 4)) ∧
  (∀ f : BitVec 4, (expand 4 f).toNat = f.toNat * 0x1111) ∧
  (∀ f : BitVec 1, expand 1 f = if f = 1 then 0xFFFF else 0x0000) ∧
  (∀ w ∈ [1, 4, 5, 6, 8], expand w (0 : BitVec w) = 0x0000 ∧ expand w (BitVec.allOnes w) = 0xFFFF ∧
    (∀ f : BitVec w, (expand w f).toNat >>> (16 - w) = f.toNat) ∧
    ∀ f g : BitVec w, f.toNat < g.toNat → (expand w f).toNat < (expand w g).toNat) ∧
  (∀ w ∈ [4, 5, 8], ∀ f : BitVec w,
    (expand w f).toNat = (2 * f.toNat * 65535 + (2 ^ w - 1)) / (2 * (2 ^ w - 1))) ∧
  ((List.range 64).filter fun n =>
    (expand 6 (BitVec.ofNat 6 n)).toNat ≠ (2 * n * 65535 + 63) / 126).take 5 = [3, 7, 11, 15, 19] ∧
  ((List.range 64).filter fun n =>
    (expand 6 (BitVec.ofNat 6 n)).toNat ≠ (2 * n * 65535 + 63) / 126).length = 10

/-- R104 with R72. -/
def Obligations.UnpackBgra8888Result : Prop :=
  ∀ s, ∃ v, exec .unpackBgra8888 s = .next { s with res := v } ∧
    widensField 8 7 s.unit v.b ∧ widensField 8 15 s.unit v.g ∧ widensField 8 23 s.unit v.r ∧ widensField 8 31 s.unit v.a

/-- R105 with R73. -/
def Obligations.UnpackBgr565Result : Prop :=
  ∀ s, ∃ v, exec .unpackBgr565 s = .next { s with res := v } ∧
    widensField 5 15 s.unit v.r ∧ widensField 6 10 s.unit v.g ∧ widensField 5 4 s.unit v.b ∧ v.a = 0xFFFF

/-- R106 with R75. -/
def Obligations.UnpackBgra5551Result : Prop :=
  ∀ s, ∃ v, exec .unpackBgra5551 s = .next { s with res := v } ∧
    widensField 5 14 s.unit v.r ∧ widensField 5 9 s.unit v.g ∧ widensField 5 4 s.unit v.b ∧ widensField 1 15 s.unit v.a

/-- R107 with R76. -/
def Obligations.UnpackBgra4444Result : Prop :=
  ∀ s, ∃ v, exec .unpackBgra4444 s = .next { s with res := v } ∧
    widensField 4 11 s.unit v.r ∧ widensField 4 7 s.unit v.g ∧ widensField 4 3 s.unit v.b ∧ widensField 4 15 s.unit v.a

/-- R108 with R74, under both values of `RGB565_LAYOUT`. -/
def Obligations.UnpackRgb565Result : Prop :=
  ∀ s, ∃ v, exec .unpackRgb565 s = .next { s with res := v } ∧
    (s.params.rgb565Layout = .rHigh → widensField 5 15 s.unit v.r ∧ widensField 5 4 s.unit v.b) ∧
    (s.params.rgb565Layout = .rLow → widensField 5 4 s.unit v.r ∧ widensField 5 15 s.unit v.b) ∧
    widensField 6 10 s.unit v.g ∧ v.a = 0xFFFF

/-- R112. -/
def Obligations.PackBgra8888Result : Prop :=
  ∀ s, ∃ u, exec .packBgra8888 s = .next { s with unit := u } ∧
    holdsReduced 8 7 s.arg.b u ∧ holdsReduced 8 15 s.arg.g u ∧ holdsReduced 8 23 s.arg.r u ∧ holdsReduced 8 31 s.arg.a u

/-- R113. -/
def Obligations.PackBgr565Result : Prop :=
  ∀ s, ∃ u, exec .packBgr565 s = .next { s with unit := u } ∧
    holdsReduced 5 15 s.arg.r u ∧ holdsReduced 6 10 s.arg.g u ∧ holdsReduced 5 4 s.arg.b u ∧ u.extractLsb' 16 16 = 0

/-- R114. -/
def Obligations.PackBgra5551Result : Prop :=
  ∀ s, ∃ u, exec .packBgra5551 s = .next { s with unit := u } ∧
    holdsReduced 1 15 s.arg.a u ∧ holdsReduced 5 14 s.arg.r u ∧ holdsReduced 5 9 s.arg.g u ∧
    holdsReduced 5 4 s.arg.b u ∧ u.extractLsb' 16 16 = 0

/-- R115. -/
def Obligations.PackBgra4444Result : Prop :=
  ∀ s, ∃ u, exec .packBgra4444 s = .next { s with unit := u } ∧
    holdsReduced 4 15 s.arg.a u ∧ holdsReduced 4 11 s.arg.r u ∧ holdsReduced 4 7 s.arg.g u ∧
    holdsReduced 4 3 s.arg.b u ∧ u.extractLsb' 16 16 = 0

/-- R116, under both values of `RGB565_LAYOUT`. -/
def Obligations.PackRgb565Result : Prop :=
  ∀ s, ∃ u, exec .packRgb565 s = .next { s with unit := u } ∧
    (s.params.rgb565Layout = .rHigh → holdsReduced 5 15 s.arg.r u ∧ holdsReduced 5 4 s.arg.b u) ∧
    (s.params.rgb565Layout = .rLow → holdsReduced 5 15 s.arg.b u ∧ holdsReduced 5 4 s.arg.r u) ∧
    holdsReduced 6 10 s.arg.g u ∧ u.extractLsb' 16 16 = 0

/-- R117, the spec's own inference from R103 to R116: packing an unpacked unit gives the unit back; so an unpacked sample survives packing and unpacking; any other
sample comes back as `expand_w(reduce_w(c))` per channel, opaque in the formats without alpha. -/
def Obligations.PackInvertsUnpack : Prop :=
  (∀ p f u, (f = .bgra8888 ∨ u.toNat < 2 ^ 16) → packUnit p f (unpackSample p f u) = u) ∧
  (∀ p f u, unpackSample p f (packUnit p f (unpackSample p f u)) = unpackSample p f u) ∧
  (∀ p v, unpackSample p .bgra8888 (packUnit p .bgra8888 v) =
    ⟨expand 8 (reduce 8 v.r), expand 8 (reduce 8 v.g), expand 8 (reduce 8 v.b), expand 8 (reduce 8 v.a)⟩) ∧
  (∀ p v, unpackSample p .bgr565 (packUnit p .bgr565 v) =
    ⟨expand 5 (reduce 5 v.r), expand 6 (reduce 6 v.g), expand 5 (reduce 5 v.b), 0xFFFF⟩) ∧
  (∀ p v, unpackSample p .bgra5551 (packUnit p .bgra5551 v) =
    ⟨expand 5 (reduce 5 v.r), expand 5 (reduce 5 v.g), expand 5 (reduce 5 v.b), expand 1 (reduce 1 v.a)⟩) ∧
  (∀ p v, unpackSample p .bgra4444 (packUnit p .bgra4444 v) =
    ⟨expand 4 (reduce 4 v.r), expand 4 (reduce 4 v.g), expand 4 (reduce 4 v.b), expand 4 (reduce 4 v.a)⟩) ∧
  (∀ p v, unpackSample p .rgb565 (packUnit p .rgb565 v) =
    ⟨expand 5 (reduce 5 v.r), expand 6 (reduce 6 v.g), expand 5 (reduce 5 v.b), 0xFFFF⟩)

/-! ### The block decoder -/

/-- R140 with R132 to R136: the pixel of a DXT1 block, opaque; local coordinates outside `[0, 4)` are refused (R146). -/
def Obligations.BlkpixDxt1Result : Prop :=
  ∀ s, (inBlock s.argX.toInt ∧ inBlock s.argY.toInt →
      ∃ v, exec .blkpixDxt1 s = .next { s with res := v } ∧
        coloursBlock s.params (s.blk.extractLsb' 0 64) (4 * s.argY.toInt + s.argX.toInt).toNat v ∧ v.a = 0xFFFF) ∧
    (¬ (inBlock s.argX.toInt ∧ inBlock s.argY.toInt) → exec .blkpixDxt1 s = .next { s with cmdErr := true })

/-- R141 with R138, R143: colour from bytes 8 to 15, alpha the pixel's nibble of bytes 0 to 7 times 0x1111. -/
def Obligations.BlkpixDxt3Result : Prop :=
  ∀ s, (inBlock s.argX.toInt ∧ inBlock s.argY.toInt →
      ∃ v, exec .blkpixDxt3 s = .next { s with res := v } ∧
        coloursBlock s.params (s.blk.extractLsb' 64 64) (4 * s.argY.toInt + s.argX.toInt).toNat v ∧
        v.a.toNat = (s.blk.extractLsb' (4 * (4 * s.argY.toInt + s.argX.toInt).toNat) 4).toNat * 0x1111) ∧
    (¬ (inBlock s.argX.toInt ∧ inBlock s.argY.toInt) → exec .blkpixDxt3 s = .next { s with cmdErr := true })

/-- R142 with R139, R143: colour from bytes 8 to 15, alpha interpolated between the widened anchors. -/
def Obligations.BlkpixDxt5Result : Prop :=
  ∀ s, (inBlock s.argX.toInt ∧ inBlock s.argY.toInt →
      ∃ v, exec .blkpixDxt5 s = .next { s with res := v } ∧
        coloursBlock s.params (s.blk.extractLsb' 64 64) (4 * s.argY.toInt + s.argX.toInt).toNat v ∧
        alphaSelects (s.blk.extractLsb' (16 + 3 * (4 * s.argY.toInt + s.argX.toInt).toNat) 3).toNat
          ((s.blk.extractLsb' 0 8).toNat * 0x0101) ((s.blk.extractLsb' 8 8).toNat * 0x0101) v.a.toNat) ∧
    (¬ (inBlock s.argX.toInt ∧ inBlock s.argY.toInt) → exec .blkpixDxt5 s = .next { s with cmdErr := true })

/-- R144, the spec's own inference from R132 to R136: equal endpoints, the mode change when unequal endpoints are swapped
(of the two blocks `k` is the one with the larger endpoint first) and the two modes' formulas of index 2 and 3, the interpolated channels between the
endpoints, the floor of the average. `blendChannel four cidx` is one channel of R135. -/
def Obligations.ColourBlockLaws : Prop :=
  (∀ p k lx ly, c0raw k = c1raw k →
    (colourIndex k lx ly ≤ 2 → dxtColour p k lx ly =
      ⟨(endpoint p (c0raw k)).r, (endpoint p (c0raw k)).g, (endpoint p (c0raw k)).b, 0xFFFF⟩) ∧
    (colourIndex k lx ly = 3 → dxtColour p k lx ly = ⟨0, 0, 0, 0xFFFF⟩)) ∧
  (∀ p k k' lx ly, c0raw k' = c1raw k → c1raw k' = c0raw k → (c1raw k).toNat < (c0raw k).toNat →
    dxtColour p k lx ly =
      ⟨blendChannel true (colourIndex k lx ly) (endpoint p (c0raw k)).r (endpoint p (c1raw k)).r,
        blendChannel true (colourIndex k lx ly) (endpoint p (c0raw k)).g (endpoint p (c1raw k)).g,
        blendChannel true (colourIndex k lx ly) (endpoint p (c0raw k)).b (endpoint p (c1raw k)).b, 0xFFFF⟩ ∧
    dxtColour p k' lx ly =
      ⟨blendChannel false (colourIndex k' lx ly) (endpoint p (c1raw k)).r (endpoint p (c0raw k)).r,
        blendChannel false (colourIndex k' lx ly) (endpoint p (c1raw k)).g (endpoint p (c0raw k)).g,
        blendChannel false (colourIndex k' lx ly) (endpoint p (c1raw k)).b (endpoint p (c0raw k)).b, 0xFFFF⟩) ∧
  (∀ e0 e1 : Channel,
    (blendChannel true 2 e0 e1).toNat = (2 * e0.toNat + e1.toNat) / 3 ∧
    (blendChannel true 3 e0 e1).toNat = (e0.toNat + 2 * e1.toNat) / 3 ∧
    (blendChannel false 2 e0 e1).toNat = (e0.toNat + e1.toNat) / 2 ∧ blendChannel false 3 e0 e1 = 0) ∧
  (∀ e0 e1 : Channel, ∀ i ∈ [2, 3], min e0.toNat e1.toNat ≤ (blendChannel true i e0 e1).toNat ∧
    (blendChannel true i e0 e1).toNat ≤ max e0.toNat e1.toNat) ∧
  blendChannel false 2 0xFFFF 0x0000 = 0x7FFF

/-- R145, the spec's own inference from R139: the alphas of the anchors FF/00, 00/FF and of equal anchors; indices 6 and 7 are the constants only in the
`a0 <= a1` mode. -/
def Obligations.Dxt5AlphaLaws : Prop :=
  (∀ a0 a1 : Channel, a1.toNat < a0.toNat →
    (blendAlpha 6 a0 a1).toNat = (2 * a0.toNat + 5 * a1.toNat) / 7 ∧
    (blendAlpha 7 a0 a1).toNat = (a0.toNat + 6 * a1.toNat) / 7) ∧
  (∀ a0 a1 : Channel, a0.toNat ≤ a1.toNat → blendAlpha 6 a0 a1 = 0x0000 ∧ blendAlpha 7 a0 a1 = 0xFFFF) ∧
  (List.range 8).map (fun i => blendAlpha i (expand 8 0xFF) (expand 8 0x00)) =
    [0xFFFF, 0x0000, 0xDB6C, 0xB6DA, 0x9248, 0x6DB6, 0x4924, 0x2492] ∧
  (List.range 8).map (fun i => blendAlpha i (expand 8 0x00) (expand 8 0xFF)) =
    [0x0000, 0xFFFF, 0x3333, 0x6666, 0x9999, 0xCCCC, 0x0000, 0xFFFF] ∧
  ∀ v : Byte, (∀ i, i ≤ 5 → (blendAlpha i (expand 8 v) (expand 8 v)).toNat = v.toNat * 0x0101) ∧
    blendAlpha 6 (expand 8 v) (expand 8 v) = 0x0000 ∧ blendAlpha 7 (expand 8 v) (expand 8 v) = 0xFFFF

/-! ### The pixel buffer -/

/-- R166, R173: outside the rectangle AT returns the zero sample and SET, on a packed level, does nothing. -/
def Obligations.OutsideRectangle : Prop :=
  ∀ s m, s.mip[s.selLevel.toNat]? = some m → ¬ inRectangle m s.argX.toInt s.argY.toInt →
    exec .atPixel s = .next { s with res := ⟨0, 0, 0, 0⟩ } ∧
    ∀ f, m.fmt = .packed f → exec .setPixel s = .next s

/-- R170, R171 with R167: AT on a packed level reads the little-endian unit at the pixel's offset and decodes it. -/
def Obligations.AtPackedResult : Prop :=
  ∀ s m f, s.mip[s.selLevel.toNat]? = some m → m.Ok → m.fmt = .packed f →
    inRectangle m s.argX.toInt s.argY.toInt →
    ∃ (off : Nat) (u : Word),
      (off : Int) = (s.argY.toInt - m.minY.toInt) * m.stride + (s.argX.toInt - m.minX.toInt) * packedUnitSize f ∧
      off + packedUnitSize f ≤ m.len ∧
      storeHolds m.store off (packedUnitSize f) u ∧ u.toNat < 2 ^ (8 * packedUnitSize f) ∧
      exec .atPixel s = .next { s with res := unpackSample s.params f u }

/-- R170, R172 with R168: AT on a block level gives the sample BLKPIX gives on the block at the pixel's offset and the
local coordinates `x mod 4`, `y mod 4`. -/
def Obligations.AtBlockAgreesWithBlkpix : Prop :=
  ∀ s m f, s.mip[s.selLevel.toNat]? = some m → m.Ok → m.fmt = .block f →
    inRectangle m s.argX.toInt s.argY.toInt →
    ∃ (off : Nat) (v : Sample),
      (off : Int) = m.stride * (s.argY.toInt / 4) + (s.argX.toInt / 4) * blockUnitSize f ∧
      off + blockUnitSize f ≤ m.len ∧
      exec .atPixel s = .next { s with res := v } ∧
      ∀ k : BitVec 128, storeHolds m.store off (blockUnitSize f) k →
        exec (blkpixOf f) { s with blk := k, argX := BitVec.ofInt 64 (s.argX.toInt % 4),
                                   argY := BitVec.ofInt 64 (s.argY.toInt % 4) } =
          .next { s with blk := k, argX := BitVec.ofInt 64 (s.argX.toInt % 4),
                         argY := BitVec.ofInt 64 (s.argY.toInt % 4), res := v }

/-- R174: without the level AT and SET are refused. -/
def Obligations.MissingLevelRefused : Prop :=
  ∀ s, s.nlev ≤ s.selLevel.toNat →
    exec .atPixel s = .next { s with cmdErr := true } ∧ exec .setPixel s = .next { s with cmdErr := true }

/-- R176: SET on a block level is refused, whatever the coordinates. -/
def Obligations.SetOnBlockRefused : Prop :=
  ∀ s m f, s.mip[s.selLevel.toNat]? = some m → m.fmt = .block f → exec .setPixel s = .next { s with cmdErr := true }

/-- R175 with R56, R167: SET inside the rectangle of a packed level writes the unit of the `ARG_*` sample at the pixel's
offset and changes no other byte of the store, no other field of the level, no other level and no register. -/
def Obligations.SetPackedResult : Prop :=
  ∀ s m f, s.mip[s.selLevel.toNat]? = some m → m.Ok → m.fmt = .packed f →
    inRectangle m s.argX.toInt s.argY.toInt →
    ∃ (off : Nat) (st : Memory),
      (off : Int) = (s.argY.toInt - m.minY.toInt) * m.stride + (s.argX.toInt - m.minX.toInt) * packedUnitSize f ∧
      off + packedUnitSize f ≤ m.len ∧
      exec .setPixel s = .next { s with mip := s.mip.set s.selLevel.toNat { m with store := st } } ∧
      storeHolds st off (packedUnitSize f) (packUnit s.params f s.arg) ∧
      ∀ a, a < off ∨ off + packedUnitSize f ≤ a → Memory.read st a = Memory.read m.store a

/-- R177, the spec's own inference from R167 to R175: after a SET inside the rectangle AT at the same pixel returns the packed and unpacked sample, and AT at any
other coordinate or level returns what it returned before. -/
def Obligations.SetThenAt : Prop :=
  ∀ s m f, s.mip[s.selLevel.toNat]? = some m → m.Ok → m.fmt = .packed f →
    inRectangle m s.argX.toInt s.argY.toInt →
    ∃ t, exec .setPixel s = .next t ∧
      exec .atPixel t = .next { t with res := unpackSample s.params f (packUnit s.params f s.arg) } ∧
      ∀ l x y v, l.toNat < s.nlev → (l ≠ s.selLevel ∨ x ≠ s.argX ∨ y ≠ s.argY) →
        exec .atPixel { s with selLevel := l, argX := x, argY := y } =
          .next { s with selLevel := l, argX := x, argY := y, res := v } →
        exec .atPixel { t with selLevel := l, argX := x, argY := y } =
          .next { t with selLevel := l, argX := x, argY := y, res := v }

/-- R169, the spec's own inference from R161 to R168: an offset of a point in the rectangle is a multiple of the unit size and its unit is inside the store. -/
def Obligations.OffsetsStayInStore : Prop :=
  ∀ m x y, m.Ok → inRectangle m x y →
    0 ≤ offsetOf m x y ∧ offsetOf m x y + unitSize m.fmt ≤ m.len ∧ (unitSize m.fmt : Int) ∣ offsetOf m x y

/-- R71, R163 to R165 in the spec's own numbers: unit sizes, block dimensions, stride, rows and length. -/
def Obligations.LevelGeometry : Prop :=
  [.bgra8888, .bgr565, .bgra5551, .bgra4444, .rgb565].map packedUnitSize = [4, 2, 2, 2, 2] ∧
  [.dxt1, .dxt3, .dxt5].map blockUnitSize = [8, 16, 16] ∧
  (∀ f, unitSize (.packed f) = packedUnitSize f ∧ blockDim (.packed f) = 1) ∧
  (∀ f, unitSize (.block f) = blockUnitSize f ∧ blockDim (.block f) = 4) ∧
  [.packed .bgra8888, .packed .bgr565, .packed .bgra5551, .packed .bgra4444, .packed .rgb565, .block .dxt1, .block .dxt3,
    .block .dxt5].map formatCode = [0, 1, 2, 3, 4, 5, 6, 7] ∧
  (∀ f w h, strideOf (.packed f) w = w * packedUnitSize f ∧ rowsOf (.packed f) h = h ∧
    lengthOf (.packed f) w h = w * packedUnitSize f * h) ∧
  (∀ f w h, strideOf (.block f) w = (w + 3) / 4 * blockUnitSize f ∧ rowsOf (.block f) h = (h + 3) / 4 ∧
    lengthOf (.block f) w h = (w + 3) / 4 * blockUnitSize f * ((h + 3) / 4)) ∧
  ∀ f w h, (newLevel f w h).minX = 0 ∧ (newLevel f w h).minY = 0 ∧
    (newLevel f w h).stride = strideOf f w.toNat ∧ (newLevel f w h).len = lengthOf f w.toNat h.toNat

/-! ### The container parser -/

/-- R192, by the function of R212, the spec's own restatement of R194 to R210: on a stream the spec admits (R51) whose
levels exceed no bounded capacity (R210; log entries 5 and 6), PARSE completes, and its state reads off the function's
value. Byte `j` of level `i`'s store reads as the stream byte at 128, plus the lengths of the levels before it, plus `j`
(R54, R207). -/
def Obligations.ParseIsCallFunction : Prop :=
  ∀ s, s.input.length < 2 ^ 64 → callFits s.params s.input →
    ∃ t, exec .parse s = .next t ∧ t.probe = false ∧ readsOff t (callFunction s.params s.input false) ∧
      ∀ i m, t.mip[i]? = some m → ∀ j, j < m.len →
        s.input[128 + ((t.mip.take i).map Level.len).sum + j]? = some (Memory.read m.store j)

/-- R193, by the function of R212, the spec's own restatement of R194 to R210: PROBE completes on every stream the spec
admits (R51), and its state reads off the function's value. -/
def Obligations.ProbeIsCallFunction : Prop :=
  ∀ s, s.input.length < 2 ^ 64 →
    ∃ t, exec .probe s = .next t ∧ t.probe = true ∧ readsOff t (callFunction s.params s.input true)

/-- R194: a stream whose first four bytes are not the tag, or that has no four bytes, fails with BadMagic; the whole
state after it: the call's state cleared (R211), `POS = min(4, |IN|)`, no header register loaded. -/
def Obligations.WrongMagicFails : Prop :=
  ∀ s, s.input.length < 2 ^ 64 → s.input.take 4 ≠ [0x44, 0x44, 0x53, 0x20] →
    ∀ c ∈ ([.parse, .probe] : List Instr),
      exec c s = .next { s with
        phase := .failed, err := some .badMagic, fmt := none, probe := decide (c = .probe),
        pos := BitVec.ofNat 64 (min 4 s.input.length), levelIdx := 0, mip := [], mipCnt := 0, outW := 0, outH := 0,
        outDepth := 0, hdrw := Vector.replicate 31 0 }

/-- R195, R196, R198 in the order of R233, for PARSE and PROBE: the short header, the size, the DX10 tag (whatever
`PF_FLAGS` holds), the required flags. -/
def Obligations.HeaderTestsInOrder : Prop :=
  ∀ s, s.input.length < 2 ^ 64 → s.input.take 4 = [0x44, 0x44, 0x53, 0x20] →
    ∀ c ∈ ([.parse, .probe] : List Instr),
      (s.input.length < 128 ∨ streamWord s.input 0 ≠ 124 →
        ∃ t, exec c s = .next t ∧ t.phase = .failed ∧ t.err = some .badHeader ∧ t.mip = [] ∧ t.mipCnt = 0 ∧
          t.pos.toNat = min 128 s.input.length) ∧
      (128 ≤ s.input.length → streamWord s.input 0 = 124 → streamWord s.input 20 = 0x30315844 →
        ∃ t, exec c s = .next t ∧ t.phase = .failed ∧ t.err = some .unsupportedExtension ∧ t.mip = [] ∧ t.mipCnt = 0 ∧
          t.pos.toNat = 128) ∧
      (128 ≤ s.input.length → streamWord s.input 0 = 124 → streamWord s.input 20 ≠ 0x30315844 →
        ¬ streamFlagsPresent s.params s.input →
        ∃ t, exec c s = .next t ∧ t.phase = .failed ∧ t.err = some .missingFields ∧ t.mip = [] ∧ t.mipCnt = 0 ∧
          t.pos.toNat = 128)

/-- R31, R197: after a call that got past the magic each header register is the little-endian word of its four stream
bytes, missing bytes taken as 0x00; after BadMagic all are 0. -/
def Obligations.HeaderRegistersLoaded : Prop :=
  ∀ c s t, isDecodeCall c = true → exec c s = .next t →
    (s.input.take 4 = [0x44, 0x44, 0x53, 0x20] → ∀ i (h : i < 31), t.hdrw[i] = streamWord s.input i) ∧
    (s.input.take 4 ≠ [0x44, 0x44, 0x53, 0x20] → ∀ i (h : i < 31), t.hdrw[i] = 0)

/-- R199, R200: when ValidateFlags passes, `MIPCNT` is the header's count or 1 while `HDRW[6]` keeps the raw field, the
probe outputs are the header's width and height and the constant 16, and a PROBE is done. -/
def Obligations.ProbeOutputsWritten : Prop :=
  ∀ c s t, isDecodeCall c = true → exec c s = .next t → s.input.take 4 = [0x44, 0x44, 0x53, 0x20] →
    128 ≤ s.input.length → streamWord s.input 0 = 124 → streamWord s.input 20 ≠ 0x30315844 →
    streamFlagsPresent s.params s.input →
    (streamWord s.input 1 &&& s.params.ddsdMipMapCount ≠ 0 → t.mipCnt = streamWord s.input 6) ∧
    (streamWord s.input 1 &&& s.params.ddsdMipMapCount = 0 → t.mipCnt = 1) ∧
    t.hdrw[6] = streamWord s.input 6 ∧
    t.outW = streamWord s.input 3 ∧ t.outH = streamWord s.input 2 ∧ t.outDepth = 16 ∧ (c = .probe → t.phase = .done)

/-- R236, R237: what a failed call leaves: no level; the mip count and the probe outputs exactly if ValidateFlags
passed; a format exactly if the error is TruncatedData; `LEVEL` the index of the level that came up short, the first
whose bytes the stream does not hold in full (R208), and 0 after any other error; nothing outside the call's own
registers. -/
def Obligations.FailedCallLeaves : Prop :=
  ∀ c s t, isDecodeCall c = true → exec c s = .next t → t.phase = .failed →
    t.mip = [] ∧ (∃ e, t.err = some e) ∧
    (t.err ∈ [some .badMagic, some .badHeader, some .unsupportedExtension, some .missingFields] →
      t.mipCnt = 0 ∧ t.outW = 0 ∧ t.outH = 0 ∧ t.outDepth = 0) ∧
    (t.err ∈ [some .unsupportedFormat, some .truncatedData] →
      t.mipCnt = streamMipCount s.params s.input ∧ t.outW = streamWord s.input 3 ∧ t.outH = streamWord s.input 2 ∧
      t.outDepth = 16) ∧
    (t.fmt ≠ none ↔ t.err = some .truncatedData) ∧
    (t.err = some .truncatedData → t.pos.toNat = s.input.length ∧ t.levelIdx.toNat < t.mipCnt.toNat ∧
      ∃ f, streamFormat s.params s.input = some f ∧ t.fmt = some f ∧
        128 + levelBytes s.params s.input f t.levelIdx.toNat ≤ s.input.length ∧
        s.input.length < 128 + levelBytes s.params s.input f (t.levelIdx.toNat + 1)) ∧
    (t.err ≠ some .truncatedData → t.levelIdx = 0) ∧
    t.cmdErr = s.cmdErr ∧ t.res = s.res ∧ t.unit = s.unit

/-- R53, the spec's own inference from R52 and R192 to R212: after a successful PARSE `POS` is 128 plus the lengths of the levels, after a PROBE 128; bytes after the last
one consumed change nothing. -/
def Obligations.TrailingBytesUnread : Prop :=
  (∀ s t, exec .parse s = .next t → t.phase = .done → t.pos.toNat = 128 + (t.mip.map Level.len).sum) ∧
  (∀ s t, exec .probe s = .next t → t.phase = .done → t.pos.toNat = 128) ∧
  ∀ c s t d, isDecodeCall c = true → exec c s = .next t → t.phase = .done → (s.input ++ d).length < 2 ^ 64 →
    exec c { s with input := s.input ++ d } = .next { t with input := s.input ++ d }

/-- R191, the spec's own table of R192 to R210: every transition of the parser, with its condition. The first row is the
clearing of R211, where every decode call starts whatever the phase (CallsEndWithinBound says that a call is the run from
there); the other commands leave `PHASE`. -/
def Obligations.PhaseTransitions : Prop :=
  (∀ probe s, beginCall probe s =
    { s with
      phase := .readMagic, err := none, fmt := none, probe := probe, pos := 0, levelIdx := 0, mip := [], mipCnt := 0,
      outW := 0, outH := 0, outDepth := 0, hdrw := Vector.replicate 31 0 }) ∧
  (∀ i s t, isDecodeCall i = false → exec i s = .next t → t.phase = s.phase) ∧
  ∀ s t, phaseStep s = .next t →
    (s.phase = .idle ∨ s.phase = .done ∨ s.phase = .failed → t = s) ∧
    (s.phase = .readMagic →
      (streamTake 4 s = [0x44, 0x44, 0x53, 0x20] → t.phase = .readHeader) ∧
      (streamTake 4 s ≠ [0x44, 0x44, 0x53, 0x20] → t.phase = .failed ∧ t.err = some .badMagic)) ∧
    (s.phase = .readHeader →
      ((streamTake 124 s).length = 124 ∧ t.hdrw[0] = 124 ∧ t.hdrw[20] ≠ 0x30315844 → t.phase = .validateFlags) ∧
      ((streamTake 124 s).length < 124 ∨ t.hdrw[0] ≠ 124 → t.phase = .failed ∧ t.err = some .badHeader) ∧
      ((streamTake 124 s).length = 124 ∧ t.hdrw[0] = 124 ∧ t.hdrw[20] = 0x30315844 →
        t.phase = .failed ∧ t.err = some .unsupportedExtension)) ∧
    (s.phase = .validateFlags →
      (s.hdrw[1] &&& (s.params.ddsdHeight ||| s.params.ddsdWidth ||| s.params.ddsdPixelFormat) =
          s.params.ddsdHeight ||| s.params.ddsdWidth ||| s.params.ddsdPixelFormat →
        (s.probe = false → t.phase = .classify) ∧ (s.probe = true → t.phase = .done)) ∧
      (s.hdrw[1] &&& (s.params.ddsdHeight ||| s.params.ddsdWidth ||| s.params.ddsdPixelFormat) ≠
          s.params.ddsdHeight ||| s.params.ddsdWidth ||| s.params.ddsdPixelFormat →
        t.phase = .failed ∧ t.err = some .missingFields)) ∧
    (s.phase = .classify →
      ((∃ f, classifyHeader s = some f) → t.phase = .buildMip ∧ t.levelIdx = 0) ∧
      (classifyHeader s = none → t.phase = .failed ∧ t.err = some .unsupportedFormat)) ∧
    (s.phase = .buildMip →
      (s.levelIdx.toNat < s.mipCnt.toNat →
        (streamTake (levelFor s s.levelIdx.toNat).len s).length = (levelFor s s.levelIdx.toNat).len →
        t.phase = .buildMip ∧ t.levelIdx.toNat = s.levelIdx.toNat + 1) ∧
      (s.levelIdx.toNat < s.mipCnt.toNat →
        (streamTake (levelFor s s.levelIdx.toNat).len s).length < (levelFor s s.levelIdx.toNat).len →
        t.phase = .failed ∧ t.err = some .truncatedData) ∧
      (s.mipCnt.toNat ≤ s.levelIdx.toNat → t.phase = .done))

/-- R191, the spec's own inference from R192 to R210: a decode call ends at rest after at most `5 + MIPCNT` transitions, and those transitions are all it does. -/
def Obligations.CallsEndWithinBound : Prop :=
  ∀ c s t, isDecodeCall c = true → exec c s = .next t →
    (t.phase = .done ∨ t.phase = .failed) ∧
    runPhases (5 + t.mipCnt.toNat) (beginCall (decide (c = .probe)) s) = .next t

/-- R211, R262: a decode call forgets the last one: its outcome depends on nothing that R211 clears. -/
def Obligations.CallsForgetTheLastCall : Prop :=
  ∀ c s s', isDecodeCall c = true →
    s' = { s with phase := s'.phase, err := s'.err, fmt := s'.fmt, probe := s'.probe, pos := s'.pos,
                  levelIdx := s'.levelIdx, mip := s'.mip, mipCnt := s'.mipCnt, outW := s'.outW, outH := s'.outH,
                  outDepth := s'.outDepth, hdrw := s'.hdrw } →
    exec c s' = exec c s

/-- R206: the dimensions of level `i` under both values of `MIP_FLOOR`. -/
def Obligations.MipDimensions : Prop :=
  ∀ p base i,
    (p.mipFloor = .clamp1 → (mipDim p base i).toNat = max 1 (base.toNat / 2 ^ i)) ∧
    (p.mipFloor = .naive → (mipDim p base i).toNat = base.toNat / 2 ^ i)

/-- R201 to R203: what ClassifyFormat selects, and that it fails on everything else. -/
def Obligations.ClassifierSelects : Prop :=
  ∀ s f,
    ((s.hdrw[19] &&& s.params.ddpfFourCC ≠ 0 ∧
        ((s.hdrw[20] = 0x31545844 ∧ f = .block .dxt1) ∨ (s.hdrw[20] = 0x33545844 ∧ f = .block .dxt3) ∨
          (s.hdrw[20] = 0x35545844 ∧ f = .block .dxt5))) ∨
      (s.hdrw[19] &&& s.params.ddpfFourCC = 0 ∧ s.hdrw[19] &&& s.params.ddpfRgb ≠ 0 ∧
        ((s.hdrw[19] &&& s.params.ddpfAlphaPixels ≠ 0 ∧
            ((s.hdrw[22] = 0xFF0000 ∧ s.hdrw[23] = 0xFF00 ∧ s.hdrw[24] = 0xFF ∧ s.hdrw[25] = 0xFF000000 ∧
                f = .packed .bgra8888) ∨
              (s.hdrw[22] = 0x0F00 ∧ s.hdrw[23] = 0x00F0 ∧ s.hdrw[24] = 0x000F ∧ s.hdrw[25] = 0xF000 ∧
                f = .packed .bgra4444) ∨
              (s.hdrw[22] = 0x7C00 ∧ s.hdrw[23] = 0x03E0 ∧ s.hdrw[24] = 0x001F ∧ s.hdrw[25] = 0x8000 ∧
                f = .packed .bgra5551))) ∨
          (s.hdrw[19] &&& s.params.ddpfAlphaPixels = 0 ∧
            s.hdrw[22] = 0xF800 ∧ s.hdrw[23] = 0x07E0 ∧ s.hdrw[24] = 0x001F ∧ s.hdrw[25] = 0 ∧
            f = .packed .bgr565))) ↔
      classifyFormat s = { s with fmt := some f, levelIdx := 0, phase := .buildMip }) ∧
    (classifyHeader s = none → classifyFormat s = { s with err := some .unsupportedFormat, mip := [], phase := .failed })

/-! ### The whole machine -/

/-- R41, the spec's own inference, and the chain's invariant (R28, R193, R206, R209): the reset state satisfies both invariants. -/
def Obligations.ResetSatisfiesInvariants : Prop :=
  State.reset.Inv ∧ State.reset.ChainOk

/-- R41, the spec's own inference from R25 to R33 and R192 to R212: every step, whatever the host does, keeps it. -/
def Obligations.StepKeepsInvariant : Prop :=
  ∀ s t, s.Inv → step s = .next t → t.Inv

/-- R28, R30, R193, R206, R209: every step keeps what a finished call leaves: the whole chain and its dimensions after a
PARSE, no format after a PROBE, never RGB565. -/
def Obligations.StepKeepsChain : Prop :=
  ∀ s t, s.ChainOk → step s = .next t → t.ChainOk

/-- R85: no command writes a register that is not in its row; SET writes no byte but those of one unit of the selected
level's store, no other field of it and no other level; a refused command sets `CMDERR` and writes nothing else. -/
def Obligations.CommandsWriteOnlyTheirRow : Prop :=
  ∀ i s t, exec i s = .next t → writesOnlyRow i s t

/-- R240, R241: in a state with `CMDERR` clear a step sets it exactly when it issues an illegal word or a command that
is refused for its operands, and then it changes nothing else. -/
def Obligations.CmderrHasItsCauses : Prop :=
  ∀ s t, s.cmdErr = false → step s = .next t →
    (t.cmdErr = true ↔ ∃ v rest, s.script = .wr 0x00 v :: rest ∧
      (illegalWord (BitVec.ofInt 8 v) = true ∨ ∃ i, decodeCommand (BitVec.ofInt 8 v) = .ok i ∧ refusedFor i s)) ∧
    (t.cmdErr = true → t = { s with script := s.script.tail, cmdErr := true })

/-- R240, R260: `CMDERR` is sticky; only reset clears it. -/
def Obligations.CmderrIsSticky : Prop :=
  ∀ s t, s.cmdErr = true → step s = .next t → t.cmdErr = false → ∃ rest, s.script = .reset :: rest

/-- R55, R169, R210, R232, R242: no state that satisfies the invariant faults; and the only refusals are PARSE's where
the stream exceeds a bounded capacity, and a decode call's on a stream that R51 says does not exist (log entries 5, 6,
7). -/
def Obligations.OnlyNamedStops : Prop :=
  (∀ s r, s.Inv → step s ≠ .fault r) ∧
  ∀ i s r, exec i s = .refused r →
    isDecodeCall i = true ∧
    (2 ^ 64 ≤ s.input.length ∧ r = .streamTooLong ∨
      i = .parse ∧ r = .levelTableBound ∧
        (∃ b, s.params.maxMipLevels = some b ∧ b < (streamMipCount s.params s.input).toNat) ∨
      i = .parse ∧ r = .storeBound ∧
        ∃ f b, streamFormat s.params s.input = some f ∧ s.params.storeBytes = some b ∧
          b < levelBytes s.params s.input f (streamMipCount s.params s.input).toNat)

/-- R51, R210, R242: where the decode calls stop by name: on a stream of 2^64 bytes or more; in a call that has passed
classification, when the mip count exceeds a bounded `MAX_MIP_LEVELS`; and, where it does not, at the first level `i`
(level 0 or a later one) that takes the stores above a bounded `STORE_BYTES`, the stream holding the levels before it
in full. The point of the call at which it stops is the model's choice (log entries 5, 6, 7). -/
def Obligations.CapacityStops : Prop :=
  (∀ c s, isDecodeCall c = true → 2 ^ 64 ≤ s.input.length → exec c s = .refused .streamTooLong) ∧
  ∀ s f, s.input.length < 2 ^ 64 → s.input.take 4 = [0x44, 0x44, 0x53, 0x20] → 128 ≤ s.input.length →
    streamWord s.input 0 = 124 → streamWord s.input 20 ≠ 0x30315844 → streamFlagsPresent s.params s.input →
    streamFormat s.params s.input = some f →
    (∀ b, s.params.maxMipLevels = some b → b < (streamMipCount s.params s.input).toNat →
      exec .parse s = .refused .levelTableBound) ∧
    (∀ b i, (∀ c, s.params.maxMipLevels = some c → (streamMipCount s.params s.input).toNat ≤ c) →
      s.params.storeBytes = some b → i < (streamMipCount s.params s.input).toNat →
      128 + levelBytes s.params s.input f i ≤ s.input.length →
      levelBytes s.params s.input f i ≤ b → b < levelBytes s.params s.input f (i + 1) →
      exec .parse s = .refused .storeBound)

/-- R54 and the canonical form of the stores (log entry 4): two stores in canonical form that read the same everywhere
are the same data. -/
def Obligations.StoresAreCanonical : Prop :=
  ∀ m m', Memory.wf m = true → Memory.wf m' = true → (∀ a, Memory.read m a = Memory.read m' a) → m = m'
end

