-- ==== Sys2Proof/Laws/Bytes.lean ====
section
/-! SUPPORT. Byte strings and little-endian values (00_scope.md R13). -/

namespace Sys2Proof.Machine

/-- A byte string of `n` bytes is a number below `2^(8n)`. -/
theorem leNat_lt (n : Nat) (bs : List Byte) (h : bs.length = n) : leNat bs < 2^(8*n) := by
  induction bs generalizing n with
  | nil => simp [leNat]
  | cons b bs ih =>
    subst h
    have := ih _ rfl
    have hb := b.isLt
    simp only [leNat, List.length_cons, Nat.mul_add, pow_add]
    omega

/-- Byte `j` of a byte string is byte `j` of its number. -/
theorem leNat_byte (bs : List Byte) (j : Nat) (hj : j < bs.length) : leNat bs / 2^(8*j) % 256 =
    (bs.getD j 0).toNat := by
  induction bs generalizing j with
  | nil => simp at hj
  | cons b bs ih =>
    have hb := b.isLt
    cases j with
    | zero => simp [leNat]; omega
    | succ j =>
      have := ih j (by simpa using hj)
      rw [List.getD_cons_succ, ← this, leNat, Nat.mul_add, pow_add, mul_comm (2^(8*j)), ← Nat.div_div_eq_div_mul]
      congr 2
      norm_num; omega

/-- Byte `j` of a byte string is byte `j` of its bit vector, where the bit vector is wide enough. -/
theorem leBits_byte (w : Nat) (bs : List Byte) (j : Nat) (hj : j < bs.length) (hw : 8 * bs.length ≤ w) :
   (leBits w bs).extractLsb' (8*j) 8 = bs.getD j 0 := by
  apply BitVec.eq_of_toNat_eq
  have h1 := leNat_lt _ bs rfl
  have : leNat bs < 2^w := lt_of_lt_of_le h1 (Nat.pow_le_pow_right (by norm_num) hw)
  rw [BitVec.extractLsb'_toNat, leBits, BitVec.toNat_ofNat, Nat.mod_eq_of_lt this, Nat.shiftRight_eq_div_pow]
  exact leNat_byte bs j hj

/-- The number of consecutive bytes of a bit vector is that slice of it. -/
theorem leNat_range {w : Nat} (v : BitVec w) (o n : Nat) :
   leNat ((List.range n).map fun i => v.extractLsb' (8*i + o) 8) = (v.extractLsb' o (8*n)).toNat := by
  induction n generalizing o with
  | zero => simp [leNat]
  | succ n ih =>
    rw [List.range_succ_eq_map]
    simp only [List.map_cons, List.map_map, leNat]
    have : ((fun i => v.extractLsb' (8*i+o) 8) ∘ Nat.succ) = fun i => v.extractLsb' (8*i + (o+8)) 8 := by
      funext i; simp only [Function.comp]; congr 1; omega
    rw [this, ih]
    simp only [BitVec.extractLsb'_toNat, Nat.mul_zero, Nat.zero_add, Nat.shiftRight_eq_div_pow]
    rw [show 8*(n+1) = 8 + 8*n by omega, pow_add 2 o 8, ← Nat.div_div_eq_div_mul]
    generalize v.toNat / 2^o = q
    rw [pow_add, Nat.mod_mul]; norm_num

/-- Four bytes, each missing one 0x00, have the number of those of the four that are there. -/
theorem leNat_take4 (l : List Byte) : leNat (l.take 4) = leNat [l.getD 0 0, l.getD 1 0, l.getD 2 0,
    l.getD 3 0] := by
  rcases l with _ | ⟨a, _ | ⟨b, _ | ⟨c, _ | ⟨d, l⟩⟩⟩⟩ <;> simp [leNat]

end Sys2Proof.Machine
end

