-- ==== Sys2Proof/Laws/Memory.lean ====
section
/-! SUPPORT. The laws of a level store: every operation keeps the canonical form and the bound, and reads see writes. -/

namespace Sys2Proof.Machine

@[simp] theorem Memory.read_nil (a : Nat) : Memory.read [] a = unlistedByte := rfl

theorem Memory.read_push (a : Nat) (b : Byte) (m : Memory) (x : Nat) (hm : Memory.read m a = unlistedByte) :
    Memory.read (Memory.push a b m) x = if x = a then b else Memory.read m x := by
  unfold Memory.push
  split
  · rename_i h
    split
    · rename_i hx; rw [hx, hm, h]
    · rfl
  · simp only [Memory.read, eq_comm]

/-- A cell in front of a store leaves every other byte. -/
theorem Memory.read_push_ne {a : Nat} {b : Byte} {m : Memory} {x : Nat} (hx : x ≠ a) :
    Memory.read (Memory.push a b m) x = Memory.read m x := by
  unfold Memory.push
  split
  · rfl
  · simp only [Memory.read, if_neg (Ne.symm hx)]

theorem Memory.wfFrom_mono {lo lo' : Nat} (h : lo' ≤ lo) : ∀ {m : Memory}, Memory.wfFrom lo m → Memory.wfFrom lo' m
  | [], _ => rfl
  | c :: m, hm => by
    simp only [Memory.wfFrom, Bool.and_eq_true, decide_eq_true_eq] at hm ⊢
    exact ⟨⟨by omega, hm.1.2⟩, hm.2⟩

/-- Below its first offset a store in canonical form lists nothing. -/
theorem Memory.read_below {lo x : Nat} (hx : x < lo) : ∀ {m : Memory}, Memory.wfFrom lo m → Memory.read m x = unlistedByte
  | [], _ => rfl
  | c :: m, hm => by
    simp only [Memory.wfFrom, Bool.and_eq_true, decide_eq_true_eq] at hm
    have hne : c.1 ≠ x := by omega
    simp only [Memory.read, hne, if_false]
    exact Memory.read_below (by omega) hm.2

theorem Memory.wfFrom_push {lo a : Nat} {b : Byte} {m : Memory} (h : lo ≤ a) (hm : Memory.wfFrom (a + 1) m) :
    Memory.wfFrom lo (Memory.push a b m) := by
  unfold Memory.push
  split
  · exact Memory.wfFrom_mono (by omega) hm
  · rename_i hb
    simp [Memory.wfFrom, h, hb, hm]

theorem Memory.wfFrom_write {a : Nat} {b : Byte} :
    ∀ {m : Memory} {lo : Nat}, lo ≤ a → Memory.wfFrom lo m → Memory.wfFrom lo (Memory.write m a b)
  | [], lo, h, _ => Memory.wfFrom_push h rfl
  | c :: m, lo, h, hm => by
    simp only [Memory.wfFrom, Bool.and_eq_true, decide_eq_true_eq] at hm
    unfold Memory.write
    split
    · exact Memory.wfFrom_push h (by simp [Memory.wfFrom, hm.1.2, hm.2]; try omega)
    · split
      · rename_i ha; subst ha; exact Memory.wfFrom_push h hm.2
      · simp only [Memory.wfFrom, Bool.and_eq_true, decide_eq_true_eq]
        exact ⟨hm.1, Memory.wfFrom_write (by omega) hm.2⟩

/-- A read after a write of one byte, in a store in canonical form. -/
theorem Memory.read_write {a : Nat} {b : Byte} {x : Nat} :
    ∀ {m : Memory} {lo : Nat}, Memory.wfFrom lo m →
      Memory.read (Memory.write m a b) x = if x = a then b else Memory.read m x
  | [], _, _ => by simpa [Memory.write] using Memory.read_push a b [] x rfl
  | c :: m, lo, hm => by
    simp only [Memory.wfFrom, Bool.and_eq_true, decide_eq_true_eq] at hm
    unfold Memory.write
    split
    · refine Memory.read_push a b _ x (Memory.read_below (lo := c.1) (by omega) ?_)
      simp [Memory.wfFrom, hm.1.2, hm.2]
    · split
      · rename_i _ ha
        rw [Memory.read_push a b m x (Memory.read_below (by omega) hm.2)]
        simp only [Memory.read, ← ha]
        split
        · rfl
        · rename_i hne; simp [Ne.symm hne]
      · simp only [Memory.read, Memory.read_write hm.2]
        split
        · rename_i hc; subst hc; simp; omega
        · rfl

/-- A write of one byte leaves every other byte, whatever the form of the store. -/
theorem Memory.read_write_ne {a : Nat} {b : Byte} {x : Nat} (hx : x ≠ a) :
    ∀ {m : Memory}, Memory.read (Memory.write m a b) x = Memory.read m x
  | [] => by simp [Memory.write, Memory.read_push_ne hx]
  | c :: m => by
    unfold Memory.write
    split
    · exact Memory.read_push_ne hx
    · split
      · rename_i _ ha
        rw [Memory.read_push_ne hx]
        simp only [Memory.read, if_neg (show c.1 ≠ x by omega)]
      · simp only [Memory.read, Memory.read_write_ne hx]

/-- A write of a byte string leaves every byte outside it, whatever the form of the store (20_memory.md R56). -/
theorem Memory.read_writeBytes_outside : ∀ (d : List Byte) (m : Memory) (off x : Nat), x < off ∨ off + d.length ≤ x →
    Memory.read (Memory.writeBytes m off d) x = Memory.read m x
  | [], _, _, _, _ => rfl
  | _ :: d, m, off, x, h => by
    simp only [List.length_cons] at h
    rw [Memory.writeBytes, Memory.read_writeBytes_outside d _ (off + 1) x (by omega),
      Memory.read_write_ne (by omega)]

theorem Memory.wfFrom_ofBytes : ∀ (d : List Byte) (a : Nat), Memory.wfFrom a (Memory.ofBytes a d)
  | [], _ => rfl
  | _ :: d, a => Memory.wfFrom_push (Nat.le_refl a) (Memory.wfFrom_ofBytes d (a + 1))

/-- A filled store reads as the bytes it was filled from (20_memory.md R54). -/
theorem Memory.read_ofBytes : ∀ (d : List Byte) (a x : Nat), a ≤ x → Memory.read (Memory.ofBytes a d) x = d.getD (x - a) 0
  | [], _, _, _ => by simp [Memory.ofBytes, unlistedByte]
  | b :: d, a, x, h => by
    rw [Memory.ofBytes, Memory.read_push a b _ x (Memory.read_below (Nat.lt_succ_self a) (Memory.wfFrom_ofBytes d (a + 1)))]
    split
    · rename_i hx; simp [hx]
    · rw [Memory.read_ofBytes d (a + 1) x (by omega)]
      have : x - a = (x - (a + 1)) + 1 := by omega
      rw [this, List.getD_cons_succ]

theorem Memory.wf_ofBytes (d : List Byte) : Memory.wf (Memory.ofBytes 0 d) = true := Memory.wfFrom_ofBytes d 0

theorem Memory.wf_writeBytes : ∀ (d : List Byte) (m : Memory) (off : Nat), Memory.wf m → Memory.wf (Memory.writeBytes m off d)
  | [], _, _, hm => hm
  | _ :: d, _, off, hm => Memory.wf_writeBytes d _ (off + 1) (Memory.wfFrom_write (Nat.zero_le _) hm)

/-- A read after a write of a byte string (20_memory.md R56): the written bytes at their offsets, every other byte as
before. -/
theorem Memory.read_writeBytes : ∀ (d : List Byte) (m : Memory) (off x : Nat), Memory.wf m →
    Memory.read (Memory.writeBytes m off d) x =
      if off ≤ x ∧ x < off + d.length then d.getD (x - off) 0 else Memory.read m x
  | [], m, off, x, _ => by
    have h : ¬ (off ≤ x ∧ x < off + ([] : List Byte).length) := by simp
    rw [if_neg h]; rfl
  | b :: d, m, off, x, hm => by
    rw [Memory.writeBytes,
      Memory.read_writeBytes d _ (off + 1) x (Memory.wfFrom_write (Nat.zero_le _) hm), Memory.read_write hm]
    by_cases hx : x = off
    · subst hx
      simp
    · by_cases h1 : off + 1 ≤ x ∧ x < off + 1 + d.length
      · have h2 : off ≤ x ∧ x < off + (b :: d).length := by simp; omega
        have h3 : x - off = (x - (off + 1)) + 1 := by omega
        rw [if_pos h1, if_pos h2, h3, List.getD_cons_succ]
      · have h2 : ¬ (off ≤ x ∧ x < off + (b :: d).length) := by simp; omega
        rw [if_neg h1, if_neg h2, if_neg hx]

/-! ### The bound: every cell below the length -/

theorem Memory.below_push {n a : Nat} {b : Byte} {m : Memory} (h : a < n) (hm : Memory.below n m) :
    Memory.below n (Memory.push a b m) := by
  unfold Memory.push
  split
  · exact hm
  · simpa [Memory.below, h] using hm

theorem Memory.below_write {n a : Nat} {b : Byte} (h : a < n) :
    ∀ {m : Memory}, Memory.below n m → Memory.below n (Memory.write m a b)
  | [], _ => Memory.below_push h rfl
  | c :: m, hm => by
    have hm' : c.1 < n ∧ Memory.below n m = true := by simpa [Memory.below] using hm
    unfold Memory.write
    split
    · exact Memory.below_push h hm
    · split
      · exact Memory.below_push h hm'.2
      · simpa [Memory.below, hm'.1] using Memory.below_write h hm'.2

theorem Memory.below_writeBytes {n : Nat} : ∀ (d : List Byte) (m : Memory) (off : Nat), off + d.length ≤ n →
    Memory.below n m → Memory.below n (Memory.writeBytes m off d)
  | [], _, _, _, hm => hm
  | _ :: d, _, off, h, hm => by
    simp only [List.length_cons] at h
    exact Memory.below_writeBytes d _ (off + 1) (by omega) (Memory.below_write (by omega) hm)

theorem Memory.below_ofBytes {n : Nat} : ∀ (d : List Byte) (a : Nat), a + d.length ≤ n →
    Memory.below n (Memory.ofBytes a d)
  | [], _, _ => rfl
  | _ :: d, a, h => by
    simp only [List.length_cons] at h
    exact Memory.below_push (by omega) (Memory.below_ofBytes d (a + 1) (by omega))

@[simp] theorem Memory.length_readBytes (m : Memory) (off n : Nat) : (Memory.readBytes m off n).length = n := by
  simp [Memory.readBytes]

@[simp] theorem length_bytesLE (n : Nat) {w : Nat} (v : BitVec w) : (bytesLE n v).length = n := by
  simp [bytesLE]

theorem getD_bytesLE {n w j : Nat} (v : BitVec w) (h : j < n) : (bytesLE n v).getD j 0 = v.extractLsb' (8 * j) 8 := by
  simp [bytesLE, h]

/-! ### Every level operation keeps the store's form -/

/-- Every memory operation of the machine keeps the canonical form and the bound: the fill of a new level. -/
theorem fillLevel_store_ok (m : Level) (d : List Byte) (h : d.length ≤ m.len) :
    Memory.wf (fillLevel m d).store = true ∧ Memory.below (fillLevel m d).len (fillLevel m d).store = true :=
  ⟨Memory.wf_ofBytes d, Memory.below_ofBytes d 0 (by simpa [fillLevel] using h)⟩

/-- A filled level's store reads as the bytes it was filled from (20_memory.md R54). -/
theorem read_fillLevel (m : Level) (d : List Byte) (j : Nat) : Memory.read (fillLevel m d).store j = d.getD j 0 :=
  Memory.read_ofBytes d 0 j (Nat.zero_le j)

/-- Every memory operation of the machine keeps the canonical form and the bound: MemWrite. -/
theorem memWrite_store_ok {m m' : Level} {off : Int} {d : List Byte} (h : memWrite m off d = some m')
    (hw : Memory.wf m.store = true) (hb : Memory.below m.len m.store = true) :
    Memory.wf m'.store = true ∧ Memory.below m'.len m'.store = true := by
  unfold memWrite at h
  split at h
  · rename_i hc
    cases h
    simp only [storeCovers, Bool.and_eq_true, decide_eq_true_eq] at hc
    exact ⟨Memory.wf_writeBytes d _ _ hw, Memory.below_writeBytes d m.store off.toNat (n := m.len) (by omega) hb⟩
  · cases h

/-- MemWrite changes no byte outside the ones it writes (20_memory.md R56). -/
theorem memWrite_outside {m m' : Level} {off : Int} {d : List Byte} (h : memWrite m off d = some m') (a : Nat)
    (ha : a < off ∨ off + d.length ≤ a) : Memory.read m'.store a = Memory.read m.store a := by
  unfold memWrite at h
  split at h
  · rename_i hc
    simp only [storeCovers, Bool.and_eq_true, decide_eq_true_eq] at hc
    cases h
    exact Memory.read_writeBytes_outside d m.store off.toNat a (by omega)
  · cases h

/-- All that MemWrite changes is the level's store. -/
theorem memWrite_eq {m m' : Level} {off : Int} {d : List Byte} (h : memWrite m off d = some m') :
    m' = { m with store := m'.store } := by
  unfold memWrite at h
  split at h
  · cases h; rfl
  · cases h

end Sys2Proof.Machine
end

