-- ==== Sys2Proof/Laws/State.lean ====
section
/-! SUPPORT. One lemma per field per update of State, true by rfl, so that no proof unfolds a record update. -/

namespace Sys2Proof.Machine

/-! ### State.setRes -/

@[simp] theorem State.setRes_phase (x : Sample) (s : State) : (s.setRes x).phase = s.phase := rfl
@[simp] theorem State.setRes_err (x : Sample) (s : State) : (s.setRes x).err = s.err := rfl
@[simp] theorem State.setRes_cmdErr (x : Sample) (s : State) : (s.setRes x).cmdErr = s.cmdErr := rfl
@[simp] theorem State.setRes_fmt (x : Sample) (s : State) : (s.setRes x).fmt = s.fmt := rfl
@[simp] theorem State.setRes_probe (x : Sample) (s : State) : (s.setRes x).probe = s.probe := rfl
@[simp] theorem State.setRes_pos (x : Sample) (s : State) : (s.setRes x).pos = s.pos := rfl
@[simp] theorem State.setRes_levelIdx (x : Sample) (s : State) : (s.setRes x).levelIdx = s.levelIdx := rfl
@[simp] theorem State.setRes_mip (x : Sample) (s : State) : (s.setRes x).mip = s.mip := rfl
@[simp] theorem State.setRes_mipCnt (x : Sample) (s : State) : (s.setRes x).mipCnt = s.mipCnt := rfl
@[simp] theorem State.setRes_outW (x : Sample) (s : State) : (s.setRes x).outW = s.outW := rfl
@[simp] theorem State.setRes_outH (x : Sample) (s : State) : (s.setRes x).outH = s.outH := rfl
@[simp] theorem State.setRes_outDepth (x : Sample) (s : State) : (s.setRes x).outDepth = s.outDepth := rfl
@[simp] theorem State.setRes_hdrw (x : Sample) (s : State) : (s.setRes x).hdrw = s.hdrw := rfl
@[simp] theorem State.setRes_selLevel (x : Sample) (s : State) : (s.setRes x).selLevel = s.selLevel := rfl
@[simp] theorem State.setRes_stAddr (x : Sample) (s : State) : (s.setRes x).stAddr = s.stAddr := rfl
@[simp] theorem State.setRes_argX (x : Sample) (s : State) : (s.setRes x).argX = s.argX := rfl
@[simp] theorem State.setRes_argY (x : Sample) (s : State) : (s.setRes x).argY = s.argY := rfl
@[simp] theorem State.setRes_arg (x : Sample) (s : State) : (s.setRes x).arg = s.arg := rfl
@[simp] theorem State.setRes_res (x : Sample) (s : State) : (s.setRes x).res = x := rfl
@[simp] theorem State.setRes_unit (x : Sample) (s : State) : (s.setRes x).unit = s.unit := rfl
@[simp] theorem State.setRes_blk (x : Sample) (s : State) : (s.setRes x).blk = s.blk := rfl
@[simp] theorem State.setRes_params (x : Sample) (s : State) : (s.setRes x).params = s.params := rfl
@[simp] theorem State.setRes_input (x : Sample) (s : State) : (s.setRes x).input = s.input := rfl
@[simp] theorem State.setRes_script (x : Sample) (s : State) : (s.setRes x).script = s.script := rfl
@[simp] theorem State.setRes_observed (x : Sample) (s : State) : (s.setRes x).observed = s.observed := rfl

/-! ### State.setUnit -/

@[simp] theorem State.setUnit_phase (u : Word) (s : State) : (s.setUnit u).phase = s.phase := rfl
@[simp] theorem State.setUnit_err (u : Word) (s : State) : (s.setUnit u).err = s.err := rfl
@[simp] theorem State.setUnit_cmdErr (u : Word) (s : State) : (s.setUnit u).cmdErr = s.cmdErr := rfl
@[simp] theorem State.setUnit_fmt (u : Word) (s : State) : (s.setUnit u).fmt = s.fmt := rfl
@[simp] theorem State.setUnit_probe (u : Word) (s : State) : (s.setUnit u).probe = s.probe := rfl
@[simp] theorem State.setUnit_pos (u : Word) (s : State) : (s.setUnit u).pos = s.pos := rfl
@[simp] theorem State.setUnit_levelIdx (u : Word) (s : State) : (s.setUnit u).levelIdx = s.levelIdx := rfl
@[simp] theorem State.setUnit_mip (u : Word) (s : State) : (s.setUnit u).mip = s.mip := rfl
@[simp] theorem State.setUnit_mipCnt (u : Word) (s : State) : (s.setUnit u).mipCnt = s.mipCnt := rfl
@[simp] theorem State.setUnit_outW (u : Word) (s : State) : (s.setUnit u).outW = s.outW := rfl
@[simp] theorem State.setUnit_outH (u : Word) (s : State) : (s.setUnit u).outH = s.outH := rfl
@[simp] theorem State.setUnit_outDepth (u : Word) (s : State) : (s.setUnit u).outDepth = s.outDepth := rfl
@[simp] theorem State.setUnit_hdrw (u : Word) (s : State) : (s.setUnit u).hdrw = s.hdrw := rfl
@[simp] theorem State.setUnit_selLevel (u : Word) (s : State) : (s.setUnit u).selLevel = s.selLevel := rfl
@[simp] theorem State.setUnit_stAddr (u : Word) (s : State) : (s.setUnit u).stAddr = s.stAddr := rfl
@[simp] theorem State.setUnit_argX (u : Word) (s : State) : (s.setUnit u).argX = s.argX := rfl
@[simp] theorem State.setUnit_argY (u : Word) (s : State) : (s.setUnit u).argY = s.argY := rfl
@[simp] theorem State.setUnit_arg (u : Word) (s : State) : (s.setUnit u).arg = s.arg := rfl
@[simp] theorem State.setUnit_res (u : Word) (s : State) : (s.setUnit u).res = s.res := rfl
@[simp] theorem State.setUnit_unit (u : Word) (s : State) : (s.setUnit u).unit = u := rfl
@[simp] theorem State.setUnit_blk (u : Word) (s : State) : (s.setUnit u).blk = s.blk := rfl
@[simp] theorem State.setUnit_params (u : Word) (s : State) : (s.setUnit u).params = s.params := rfl
@[simp] theorem State.setUnit_input (u : Word) (s : State) : (s.setUnit u).input = s.input := rfl
@[simp] theorem State.setUnit_script (u : Word) (s : State) : (s.setUnit u).script = s.script := rfl
@[simp] theorem State.setUnit_observed (u : Word) (s : State) : (s.setUnit u).observed = s.observed := rfl

/-! ### State.setPhase -/

@[simp] theorem State.setPhase_phase (p : Phase) (s : State) : (s.setPhase p).phase = p := rfl
@[simp] theorem State.setPhase_err (p : Phase) (s : State) : (s.setPhase p).err = s.err := rfl
@[simp] theorem State.setPhase_cmdErr (p : Phase) (s : State) : (s.setPhase p).cmdErr = s.cmdErr := rfl
@[simp] theorem State.setPhase_fmt (p : Phase) (s : State) : (s.setPhase p).fmt = s.fmt := rfl
@[simp] theorem State.setPhase_probe (p : Phase) (s : State) : (s.setPhase p).probe = s.probe := rfl
@[simp] theorem State.setPhase_pos (p : Phase) (s : State) : (s.setPhase p).pos = s.pos := rfl
@[simp] theorem State.setPhase_levelIdx (p : Phase) (s : State) : (s.setPhase p).levelIdx = s.levelIdx := rfl
@[simp] theorem State.setPhase_mip (p : Phase) (s : State) : (s.setPhase p).mip = s.mip := rfl
@[simp] theorem State.setPhase_mipCnt (p : Phase) (s : State) : (s.setPhase p).mipCnt = s.mipCnt := rfl
@[simp] theorem State.setPhase_outW (p : Phase) (s : State) : (s.setPhase p).outW = s.outW := rfl
@[simp] theorem State.setPhase_outH (p : Phase) (s : State) : (s.setPhase p).outH = s.outH := rfl
@[simp] theorem State.setPhase_outDepth (p : Phase) (s : State) : (s.setPhase p).outDepth = s.outDepth := rfl
@[simp] theorem State.setPhase_hdrw (p : Phase) (s : State) : (s.setPhase p).hdrw = s.hdrw := rfl
@[simp] theorem State.setPhase_selLevel (p : Phase) (s : State) : (s.setPhase p).selLevel = s.selLevel := rfl
@[simp] theorem State.setPhase_stAddr (p : Phase) (s : State) : (s.setPhase p).stAddr = s.stAddr := rfl
@[simp] theorem State.setPhase_argX (p : Phase) (s : State) : (s.setPhase p).argX = s.argX := rfl
@[simp] theorem State.setPhase_argY (p : Phase) (s : State) : (s.setPhase p).argY = s.argY := rfl
@[simp] theorem State.setPhase_arg (p : Phase) (s : State) : (s.setPhase p).arg = s.arg := rfl
@[simp] theorem State.setPhase_res (p : Phase) (s : State) : (s.setPhase p).res = s.res := rfl
@[simp] theorem State.setPhase_unit (p : Phase) (s : State) : (s.setPhase p).unit = s.unit := rfl
@[simp] theorem State.setPhase_blk (p : Phase) (s : State) : (s.setPhase p).blk = s.blk := rfl
@[simp] theorem State.setPhase_params (p : Phase) (s : State) : (s.setPhase p).params = s.params := rfl
@[simp] theorem State.setPhase_input (p : Phase) (s : State) : (s.setPhase p).input = s.input := rfl
@[simp] theorem State.setPhase_script (p : Phase) (s : State) : (s.setPhase p).script = s.script := rfl
@[simp] theorem State.setPhase_observed (p : Phase) (s : State) : (s.setPhase p).observed = s.observed := rfl

/-! ### State.setSelected -/

@[simp] theorem State.setSelected_phase (m : Level) (s : State) : (s.setSelected m).phase = s.phase := rfl
@[simp] theorem State.setSelected_err (m : Level) (s : State) : (s.setSelected m).err = s.err := rfl
@[simp] theorem State.setSelected_cmdErr (m : Level) (s : State) : (s.setSelected m).cmdErr = s.cmdErr := rfl
@[simp] theorem State.setSelected_fmt (m : Level) (s : State) : (s.setSelected m).fmt = s.fmt := rfl
@[simp] theorem State.setSelected_probe (m : Level) (s : State) : (s.setSelected m).probe = s.probe := rfl
@[simp] theorem State.setSelected_pos (m : Level) (s : State) : (s.setSelected m).pos = s.pos := rfl
@[simp] theorem State.setSelected_levelIdx (m : Level) (s : State) : (s.setSelected m).levelIdx = s.levelIdx := rfl
@[simp] theorem State.setSelected_mip (m : Level) (s : State) : (s.setSelected m).mip = s.mip.set s.selLevel.toNat m := rfl
@[simp] theorem State.setSelected_mipCnt (m : Level) (s : State) : (s.setSelected m).mipCnt = s.mipCnt := rfl
@[simp] theorem State.setSelected_outW (m : Level) (s : State) : (s.setSelected m).outW = s.outW := rfl
@[simp] theorem State.setSelected_outH (m : Level) (s : State) : (s.setSelected m).outH = s.outH := rfl
@[simp] theorem State.setSelected_outDepth (m : Level) (s : State) : (s.setSelected m).outDepth = s.outDepth := rfl
@[simp] theorem State.setSelected_hdrw (m : Level) (s : State) : (s.setSelected m).hdrw = s.hdrw := rfl
@[simp] theorem State.setSelected_selLevel (m : Level) (s : State) : (s.setSelected m).selLevel = s.selLevel := rfl
@[simp] theorem State.setSelected_stAddr (m : Level) (s : State) : (s.setSelected m).stAddr = s.stAddr := rfl
@[simp] theorem State.setSelected_argX (m : Level) (s : State) : (s.setSelected m).argX = s.argX := rfl
@[simp] theorem State.setSelected_argY (m : Level) (s : State) : (s.setSelected m).argY = s.argY := rfl
@[simp] theorem State.setSelected_arg (m : Level) (s : State) : (s.setSelected m).arg = s.arg := rfl
@[simp] theorem State.setSelected_res (m : Level) (s : State) : (s.setSelected m).res = s.res := rfl
@[simp] theorem State.setSelected_unit (m : Level) (s : State) : (s.setSelected m).unit = s.unit := rfl
@[simp] theorem State.setSelected_blk (m : Level) (s : State) : (s.setSelected m).blk = s.blk := rfl
@[simp] theorem State.setSelected_params (m : Level) (s : State) : (s.setSelected m).params = s.params := rfl
@[simp] theorem State.setSelected_input (m : Level) (s : State) : (s.setSelected m).input = s.input := rfl
@[simp] theorem State.setSelected_script (m : Level) (s : State) : (s.setSelected m).script = s.script := rfl
@[simp] theorem State.setSelected_observed (m : Level) (s : State) : (s.setSelected m).observed = s.observed := rfl

/-! ### State.appendLevel -/

@[simp] theorem State.appendLevel_phase (m : Level) (s : State) : (s.appendLevel m).phase = s.phase := rfl
@[simp] theorem State.appendLevel_err (m : Level) (s : State) : (s.appendLevel m).err = s.err := rfl
@[simp] theorem State.appendLevel_cmdErr (m : Level) (s : State) : (s.appendLevel m).cmdErr = s.cmdErr := rfl
@[simp] theorem State.appendLevel_fmt (m : Level) (s : State) : (s.appendLevel m).fmt = s.fmt := rfl
@[simp] theorem State.appendLevel_probe (m : Level) (s : State) : (s.appendLevel m).probe = s.probe := rfl
@[simp] theorem State.appendLevel_pos (m : Level) (s : State) : (s.appendLevel m).pos = s.pos := rfl
@[simp] theorem State.appendLevel_levelIdx (m : Level) (s : State) : (s.appendLevel m).levelIdx = s.levelIdx + 1 := rfl
@[simp] theorem State.appendLevel_mip (m : Level) (s : State) : (s.appendLevel m).mip = s.mip ++ [m] := rfl
@[simp] theorem State.appendLevel_mipCnt (m : Level) (s : State) : (s.appendLevel m).mipCnt = s.mipCnt := rfl
@[simp] theorem State.appendLevel_outW (m : Level) (s : State) : (s.appendLevel m).outW = s.outW := rfl
@[simp] theorem State.appendLevel_outH (m : Level) (s : State) : (s.appendLevel m).outH = s.outH := rfl
@[simp] theorem State.appendLevel_outDepth (m : Level) (s : State) : (s.appendLevel m).outDepth = s.outDepth := rfl
@[simp] theorem State.appendLevel_hdrw (m : Level) (s : State) : (s.appendLevel m).hdrw = s.hdrw := rfl
@[simp] theorem State.appendLevel_selLevel (m : Level) (s : State) : (s.appendLevel m).selLevel = s.selLevel := rfl
@[simp] theorem State.appendLevel_stAddr (m : Level) (s : State) : (s.appendLevel m).stAddr = s.stAddr := rfl
@[simp] theorem State.appendLevel_argX (m : Level) (s : State) : (s.appendLevel m).argX = s.argX := rfl
@[simp] theorem State.appendLevel_argY (m : Level) (s : State) : (s.appendLevel m).argY = s.argY := rfl
@[simp] theorem State.appendLevel_arg (m : Level) (s : State) : (s.appendLevel m).arg = s.arg := rfl
@[simp] theorem State.appendLevel_res (m : Level) (s : State) : (s.appendLevel m).res = s.res := rfl
@[simp] theorem State.appendLevel_unit (m : Level) (s : State) : (s.appendLevel m).unit = s.unit := rfl
@[simp] theorem State.appendLevel_blk (m : Level) (s : State) : (s.appendLevel m).blk = s.blk := rfl
@[simp] theorem State.appendLevel_params (m : Level) (s : State) : (s.appendLevel m).params = s.params := rfl
@[simp] theorem State.appendLevel_input (m : Level) (s : State) : (s.appendLevel m).input = s.input := rfl
@[simp] theorem State.appendLevel_script (m : Level) (s : State) : (s.appendLevel m).script = s.script := rfl
@[simp] theorem State.appendLevel_observed (m : Level) (s : State) : (s.appendLevel m).observed = s.observed := rfl

/-! ### streamAdvance -/

@[simp] theorem streamAdvance_phase (n : Nat) (s : State) : (streamAdvance n s).phase = s.phase := rfl
@[simp] theorem streamAdvance_err (n : Nat) (s : State) : (streamAdvance n s).err = s.err := rfl
@[simp] theorem streamAdvance_cmdErr (n : Nat) (s : State) : (streamAdvance n s).cmdErr = s.cmdErr := rfl
@[simp] theorem streamAdvance_fmt (n : Nat) (s : State) : (streamAdvance n s).fmt = s.fmt := rfl
@[simp] theorem streamAdvance_probe (n : Nat) (s : State) : (streamAdvance n s).probe = s.probe := rfl
@[simp] theorem streamAdvance_pos (n : Nat) (s : State) : (streamAdvance n s).pos = s.pos + BitVec.ofNat 64 (streamTake n s).length := rfl
@[simp] theorem streamAdvance_levelIdx (n : Nat) (s : State) : (streamAdvance n s).levelIdx = s.levelIdx := rfl
@[simp] theorem streamAdvance_mip (n : Nat) (s : State) : (streamAdvance n s).mip = s.mip := rfl
@[simp] theorem streamAdvance_mipCnt (n : Nat) (s : State) : (streamAdvance n s).mipCnt = s.mipCnt := rfl
@[simp] theorem streamAdvance_outW (n : Nat) (s : State) : (streamAdvance n s).outW = s.outW := rfl
@[simp] theorem streamAdvance_outH (n : Nat) (s : State) : (streamAdvance n s).outH = s.outH := rfl
@[simp] theorem streamAdvance_outDepth (n : Nat) (s : State) : (streamAdvance n s).outDepth = s.outDepth := rfl
@[simp] theorem streamAdvance_hdrw (n : Nat) (s : State) : (streamAdvance n s).hdrw = s.hdrw := rfl
@[simp] theorem streamAdvance_selLevel (n : Nat) (s : State) : (streamAdvance n s).selLevel = s.selLevel := rfl
@[simp] theorem streamAdvance_stAddr (n : Nat) (s : State) : (streamAdvance n s).stAddr = s.stAddr := rfl
@[simp] theorem streamAdvance_argX (n : Nat) (s : State) : (streamAdvance n s).argX = s.argX := rfl
@[simp] theorem streamAdvance_argY (n : Nat) (s : State) : (streamAdvance n s).argY = s.argY := rfl
@[simp] theorem streamAdvance_arg (n : Nat) (s : State) : (streamAdvance n s).arg = s.arg := rfl
@[simp] theorem streamAdvance_res (n : Nat) (s : State) : (streamAdvance n s).res = s.res := rfl
@[simp] theorem streamAdvance_unit (n : Nat) (s : State) : (streamAdvance n s).unit = s.unit := rfl
@[simp] theorem streamAdvance_blk (n : Nat) (s : State) : (streamAdvance n s).blk = s.blk := rfl
@[simp] theorem streamAdvance_params (n : Nat) (s : State) : (streamAdvance n s).params = s.params := rfl
@[simp] theorem streamAdvance_input (n : Nat) (s : State) : (streamAdvance n s).input = s.input := rfl
@[simp] theorem streamAdvance_script (n : Nat) (s : State) : (streamAdvance n s).script = s.script := rfl
@[simp] theorem streamAdvance_observed (n : Nat) (s : State) : (streamAdvance n s).observed = s.observed := rfl

/-! ### State.loadHeader -/

@[simp] theorem State.loadHeader_phase (d : List Byte) (s : State) : (s.loadHeader d).phase = s.phase := rfl
@[simp] theorem State.loadHeader_err (d : List Byte) (s : State) : (s.loadHeader d).err = s.err := rfl
@[simp] theorem State.loadHeader_cmdErr (d : List Byte) (s : State) : (s.loadHeader d).cmdErr = s.cmdErr := rfl
@[simp] theorem State.loadHeader_fmt (d : List Byte) (s : State) : (s.loadHeader d).fmt = s.fmt := rfl
@[simp] theorem State.loadHeader_probe (d : List Byte) (s : State) : (s.loadHeader d).probe = s.probe := rfl
@[simp] theorem State.loadHeader_pos (d : List Byte) (s : State) : (s.loadHeader d).pos = s.pos := rfl
@[simp] theorem State.loadHeader_levelIdx (d : List Byte) (s : State) : (s.loadHeader d).levelIdx = s.levelIdx := rfl
@[simp] theorem State.loadHeader_mip (d : List Byte) (s : State) : (s.loadHeader d).mip = s.mip := rfl
@[simp] theorem State.loadHeader_mipCnt (d : List Byte) (s : State) : (s.loadHeader d).mipCnt = s.mipCnt := rfl
@[simp] theorem State.loadHeader_outW (d : List Byte) (s : State) : (s.loadHeader d).outW = s.outW := rfl
@[simp] theorem State.loadHeader_outH (d : List Byte) (s : State) : (s.loadHeader d).outH = s.outH := rfl
@[simp] theorem State.loadHeader_outDepth (d : List Byte) (s : State) : (s.loadHeader d).outDepth = s.outDepth := rfl
@[simp] theorem State.loadHeader_hdrw (d : List Byte) (s : State) : (s.loadHeader d).hdrw = headerWords d := rfl
@[simp] theorem State.loadHeader_selLevel (d : List Byte) (s : State) : (s.loadHeader d).selLevel = s.selLevel := rfl
@[simp] theorem State.loadHeader_stAddr (d : List Byte) (s : State) : (s.loadHeader d).stAddr = s.stAddr := rfl
@[simp] theorem State.loadHeader_argX (d : List Byte) (s : State) : (s.loadHeader d).argX = s.argX := rfl
@[simp] theorem State.loadHeader_argY (d : List Byte) (s : State) : (s.loadHeader d).argY = s.argY := rfl
@[simp] theorem State.loadHeader_arg (d : List Byte) (s : State) : (s.loadHeader d).arg = s.arg := rfl
@[simp] theorem State.loadHeader_res (d : List Byte) (s : State) : (s.loadHeader d).res = s.res := rfl
@[simp] theorem State.loadHeader_unit (d : List Byte) (s : State) : (s.loadHeader d).unit = s.unit := rfl
@[simp] theorem State.loadHeader_blk (d : List Byte) (s : State) : (s.loadHeader d).blk = s.blk := rfl
@[simp] theorem State.loadHeader_params (d : List Byte) (s : State) : (s.loadHeader d).params = s.params := rfl
@[simp] theorem State.loadHeader_input (d : List Byte) (s : State) : (s.loadHeader d).input = s.input := rfl
@[simp] theorem State.loadHeader_script (d : List Byte) (s : State) : (s.loadHeader d).script = s.script := rfl
@[simp] theorem State.loadHeader_observed (d : List Byte) (s : State) : (s.loadHeader d).observed = s.observed := rfl

/-! ### State.setProbeOutputs -/

@[simp] theorem State.setProbeOutputs_phase (n w h : Word) (s : State) : (s.setProbeOutputs n w h).phase = s.phase := rfl
@[simp] theorem State.setProbeOutputs_err (n w h : Word) (s : State) : (s.setProbeOutputs n w h).err = s.err := rfl
@[simp] theorem State.setProbeOutputs_cmdErr (n w h : Word) (s : State) : (s.setProbeOutputs n w h).cmdErr = s.cmdErr := rfl
@[simp] theorem State.setProbeOutputs_fmt (n w h : Word) (s : State) : (s.setProbeOutputs n w h).fmt = s.fmt := rfl
@[simp] theorem State.setProbeOutputs_probe (n w h : Word) (s : State) : (s.setProbeOutputs n w h).probe = s.probe := rfl
@[simp] theorem State.setProbeOutputs_pos (n w h : Word) (s : State) : (s.setProbeOutputs n w h).pos = s.pos := rfl
@[simp] theorem State.setProbeOutputs_levelIdx (n w h : Word) (s : State) : (s.setProbeOutputs n w h).levelIdx = s.levelIdx := rfl
@[simp] theorem State.setProbeOutputs_mip (n w h : Word) (s : State) : (s.setProbeOutputs n w h).mip = s.mip := rfl
@[simp] theorem State.setProbeOutputs_mipCnt (n w h : Word) (s : State) : (s.setProbeOutputs n w h).mipCnt = n := rfl
@[simp] theorem State.setProbeOutputs_outW (n w h : Word) (s : State) : (s.setProbeOutputs n w h).outW = w := rfl
@[simp] theorem State.setProbeOutputs_outH (n w h : Word) (s : State) : (s.setProbeOutputs n w h).outH = h := rfl
@[simp] theorem State.setProbeOutputs_outDepth (n w h : Word) (s : State) : (s.setProbeOutputs n w h).outDepth = 16 := rfl
@[simp] theorem State.setProbeOutputs_hdrw (n w h : Word) (s : State) : (s.setProbeOutputs n w h).hdrw = s.hdrw := rfl
@[simp] theorem State.setProbeOutputs_selLevel (n w h : Word) (s : State) : (s.setProbeOutputs n w h).selLevel = s.selLevel := rfl
@[simp] theorem State.setProbeOutputs_stAddr (n w h : Word) (s : State) : (s.setProbeOutputs n w h).stAddr = s.stAddr := rfl
@[simp] theorem State.setProbeOutputs_argX (n w h : Word) (s : State) : (s.setProbeOutputs n w h).argX = s.argX := rfl
@[simp] theorem State.setProbeOutputs_argY (n w h : Word) (s : State) : (s.setProbeOutputs n w h).argY = s.argY := rfl
@[simp] theorem State.setProbeOutputs_arg (n w h : Word) (s : State) : (s.setProbeOutputs n w h).arg = s.arg := rfl
@[simp] theorem State.setProbeOutputs_res (n w h : Word) (s : State) : (s.setProbeOutputs n w h).res = s.res := rfl
@[simp] theorem State.setProbeOutputs_unit (n w h : Word) (s : State) : (s.setProbeOutputs n w h).unit = s.unit := rfl
@[simp] theorem State.setProbeOutputs_blk (n w h : Word) (s : State) : (s.setProbeOutputs n w h).blk = s.blk := rfl
@[simp] theorem State.setProbeOutputs_params (n w h : Word) (s : State) : (s.setProbeOutputs n w h).params = s.params := rfl
@[simp] theorem State.setProbeOutputs_input (n w h : Word) (s : State) : (s.setProbeOutputs n w h).input = s.input := rfl
@[simp] theorem State.setProbeOutputs_script (n w h : Word) (s : State) : (s.setProbeOutputs n w h).script = s.script := rfl
@[simp] theorem State.setProbeOutputs_observed (n w h : Word) (s : State) : (s.setProbeOutputs n w h).observed = s.observed := rfl

/-! ### State.setFormat -/

@[simp] theorem State.setFormat_phase (f : PixelFormat) (s : State) : (s.setFormat f).phase = .buildMip := rfl
@[simp] theorem State.setFormat_err (f : PixelFormat) (s : State) : (s.setFormat f).err = s.err := rfl
@[simp] theorem State.setFormat_cmdErr (f : PixelFormat) (s : State) : (s.setFormat f).cmdErr = s.cmdErr := rfl
@[simp] theorem State.setFormat_fmt (f : PixelFormat) (s : State) : (s.setFormat f).fmt = some f := rfl
@[simp] theorem State.setFormat_probe (f : PixelFormat) (s : State) : (s.setFormat f).probe = s.probe := rfl
@[simp] theorem State.setFormat_pos (f : PixelFormat) (s : State) : (s.setFormat f).pos = s.pos := rfl
@[simp] theorem State.setFormat_levelIdx (f : PixelFormat) (s : State) : (s.setFormat f).levelIdx = 0 := rfl
@[simp] theorem State.setFormat_mip (f : PixelFormat) (s : State) : (s.setFormat f).mip = s.mip := rfl
@[simp] theorem State.setFormat_mipCnt (f : PixelFormat) (s : State) : (s.setFormat f).mipCnt = s.mipCnt := rfl
@[simp] theorem State.setFormat_outW (f : PixelFormat) (s : State) : (s.setFormat f).outW = s.outW := rfl
@[simp] theorem State.setFormat_outH (f : PixelFormat) (s : State) : (s.setFormat f).outH = s.outH := rfl
@[simp] theorem State.setFormat_outDepth (f : PixelFormat) (s : State) : (s.setFormat f).outDepth = s.outDepth := rfl
@[simp] theorem State.setFormat_hdrw (f : PixelFormat) (s : State) : (s.setFormat f).hdrw = s.hdrw := rfl
@[simp] theorem State.setFormat_selLevel (f : PixelFormat) (s : State) : (s.setFormat f).selLevel = s.selLevel := rfl
@[simp] theorem State.setFormat_stAddr (f : PixelFormat) (s : State) : (s.setFormat f).stAddr = s.stAddr := rfl
@[simp] theorem State.setFormat_argX (f : PixelFormat) (s : State) : (s.setFormat f).argX = s.argX := rfl
@[simp] theorem State.setFormat_argY (f : PixelFormat) (s : State) : (s.setFormat f).argY = s.argY := rfl
@[simp] theorem State.setFormat_arg (f : PixelFormat) (s : State) : (s.setFormat f).arg = s.arg := rfl
@[simp] theorem State.setFormat_res (f : PixelFormat) (s : State) : (s.setFormat f).res = s.res := rfl
@[simp] theorem State.setFormat_unit (f : PixelFormat) (s : State) : (s.setFormat f).unit = s.unit := rfl
@[simp] theorem State.setFormat_blk (f : PixelFormat) (s : State) : (s.setFormat f).blk = s.blk := rfl
@[simp] theorem State.setFormat_params (f : PixelFormat) (s : State) : (s.setFormat f).params = s.params := rfl
@[simp] theorem State.setFormat_input (f : PixelFormat) (s : State) : (s.setFormat f).input = s.input := rfl
@[simp] theorem State.setFormat_script (f : PixelFormat) (s : State) : (s.setFormat f).script = s.script := rfl
@[simp] theorem State.setFormat_observed (f : PixelFormat) (s : State) : (s.setFormat f).observed = s.observed := rfl

/-! ### raiseError -/

@[simp] theorem raiseError_phase (e : DecodeError) (s : State) : (raiseError e s).phase = .failed := rfl
@[simp] theorem raiseError_err (e : DecodeError) (s : State) : (raiseError e s).err = some e := rfl
@[simp] theorem raiseError_cmdErr (e : DecodeError) (s : State) : (raiseError e s).cmdErr = s.cmdErr := rfl
@[simp] theorem raiseError_fmt (e : DecodeError) (s : State) : (raiseError e s).fmt = s.fmt := rfl
@[simp] theorem raiseError_probe (e : DecodeError) (s : State) : (raiseError e s).probe = s.probe := rfl
@[simp] theorem raiseError_pos (e : DecodeError) (s : State) : (raiseError e s).pos = s.pos := rfl
@[simp] theorem raiseError_levelIdx (e : DecodeError) (s : State) : (raiseError e s).levelIdx = s.levelIdx := rfl
@[simp] theorem raiseError_mip (e : DecodeError) (s : State) : (raiseError e s).mip = [] := rfl
@[simp] theorem raiseError_mipCnt (e : DecodeError) (s : State) : (raiseError e s).mipCnt = s.mipCnt := rfl
@[simp] theorem raiseError_outW (e : DecodeError) (s : State) : (raiseError e s).outW = s.outW := rfl
@[simp] theorem raiseError_outH (e : DecodeError) (s : State) : (raiseError e s).outH = s.outH := rfl
@[simp] theorem raiseError_outDepth (e : DecodeError) (s : State) : (raiseError e s).outDepth = s.outDepth := rfl
@[simp] theorem raiseError_hdrw (e : DecodeError) (s : State) : (raiseError e s).hdrw = s.hdrw := rfl
@[simp] theorem raiseError_selLevel (e : DecodeError) (s : State) : (raiseError e s).selLevel = s.selLevel := rfl
@[simp] theorem raiseError_stAddr (e : DecodeError) (s : State) : (raiseError e s).stAddr = s.stAddr := rfl
@[simp] theorem raiseError_argX (e : DecodeError) (s : State) : (raiseError e s).argX = s.argX := rfl
@[simp] theorem raiseError_argY (e : DecodeError) (s : State) : (raiseError e s).argY = s.argY := rfl
@[simp] theorem raiseError_arg (e : DecodeError) (s : State) : (raiseError e s).arg = s.arg := rfl
@[simp] theorem raiseError_res (e : DecodeError) (s : State) : (raiseError e s).res = s.res := rfl
@[simp] theorem raiseError_unit (e : DecodeError) (s : State) : (raiseError e s).unit = s.unit := rfl
@[simp] theorem raiseError_blk (e : DecodeError) (s : State) : (raiseError e s).blk = s.blk := rfl
@[simp] theorem raiseError_params (e : DecodeError) (s : State) : (raiseError e s).params = s.params := rfl
@[simp] theorem raiseError_input (e : DecodeError) (s : State) : (raiseError e s).input = s.input := rfl
@[simp] theorem raiseError_script (e : DecodeError) (s : State) : (raiseError e s).script = s.script := rfl
@[simp] theorem raiseError_observed (e : DecodeError) (s : State) : (raiseError e s).observed = s.observed := rfl

/-! ### beginCall -/

@[simp] theorem beginCall_phase (b : Bool) (s : State) : (beginCall b s).phase = .readMagic := rfl
@[simp] theorem beginCall_err (b : Bool) (s : State) : (beginCall b s).err = none := rfl
@[simp] theorem beginCall_cmdErr (b : Bool) (s : State) : (beginCall b s).cmdErr = s.cmdErr := rfl
@[simp] theorem beginCall_fmt (b : Bool) (s : State) : (beginCall b s).fmt = none := rfl
@[simp] theorem beginCall_probe (b : Bool) (s : State) : (beginCall b s).probe = b := rfl
@[simp] theorem beginCall_pos (b : Bool) (s : State) : (beginCall b s).pos = 0 := rfl
@[simp] theorem beginCall_levelIdx (b : Bool) (s : State) : (beginCall b s).levelIdx = 0 := rfl
@[simp] theorem beginCall_mip (b : Bool) (s : State) : (beginCall b s).mip = [] := rfl
@[simp] theorem beginCall_mipCnt (b : Bool) (s : State) : (beginCall b s).mipCnt = 0 := rfl
@[simp] theorem beginCall_outW (b : Bool) (s : State) : (beginCall b s).outW = 0 := rfl
@[simp] theorem beginCall_outH (b : Bool) (s : State) : (beginCall b s).outH = 0 := rfl
@[simp] theorem beginCall_outDepth (b : Bool) (s : State) : (beginCall b s).outDepth = 0 := rfl
@[simp] theorem beginCall_hdrw (b : Bool) (s : State) : (beginCall b s).hdrw = Vector.replicate 31 0 := rfl
@[simp] theorem beginCall_selLevel (b : Bool) (s : State) : (beginCall b s).selLevel = s.selLevel := rfl
@[simp] theorem beginCall_stAddr (b : Bool) (s : State) : (beginCall b s).stAddr = s.stAddr := rfl
@[simp] theorem beginCall_argX (b : Bool) (s : State) : (beginCall b s).argX = s.argX := rfl
@[simp] theorem beginCall_argY (b : Bool) (s : State) : (beginCall b s).argY = s.argY := rfl
@[simp] theorem beginCall_arg (b : Bool) (s : State) : (beginCall b s).arg = s.arg := rfl
@[simp] theorem beginCall_res (b : Bool) (s : State) : (beginCall b s).res = s.res := rfl
@[simp] theorem beginCall_unit (b : Bool) (s : State) : (beginCall b s).unit = s.unit := rfl
@[simp] theorem beginCall_blk (b : Bool) (s : State) : (beginCall b s).blk = s.blk := rfl
@[simp] theorem beginCall_params (b : Bool) (s : State) : (beginCall b s).params = s.params := rfl
@[simp] theorem beginCall_input (b : Bool) (s : State) : (beginCall b s).input = s.input := rfl
@[simp] theorem beginCall_script (b : Bool) (s : State) : (beginCall b s).script = s.script := rfl
@[simp] theorem beginCall_observed (b : Bool) (s : State) : (beginCall b s).observed = s.observed := rfl

/-! ### refuseCommand -/

@[simp] theorem refuseCommand_phase (s : State) : (refuseCommand s).phase = s.phase := rfl
@[simp] theorem refuseCommand_err (s : State) : (refuseCommand s).err = s.err := rfl
@[simp] theorem refuseCommand_cmdErr (s : State) : (refuseCommand s).cmdErr = true := rfl
@[simp] theorem refuseCommand_fmt (s : State) : (refuseCommand s).fmt = s.fmt := rfl
@[simp] theorem refuseCommand_probe (s : State) : (refuseCommand s).probe = s.probe := rfl
@[simp] theorem refuseCommand_pos (s : State) : (refuseCommand s).pos = s.pos := rfl
@[simp] theorem refuseCommand_levelIdx (s : State) : (refuseCommand s).levelIdx = s.levelIdx := rfl
@[simp] theorem refuseCommand_mip (s : State) : (refuseCommand s).mip = s.mip := rfl
@[simp] theorem refuseCommand_mipCnt (s : State) : (refuseCommand s).mipCnt = s.mipCnt := rfl
@[simp] theorem refuseCommand_outW (s : State) : (refuseCommand s).outW = s.outW := rfl
@[simp] theorem refuseCommand_outH (s : State) : (refuseCommand s).outH = s.outH := rfl
@[simp] theorem refuseCommand_outDepth (s : State) : (refuseCommand s).outDepth = s.outDepth := rfl
@[simp] theorem refuseCommand_hdrw (s : State) : (refuseCommand s).hdrw = s.hdrw := rfl
@[simp] theorem refuseCommand_selLevel (s : State) : (refuseCommand s).selLevel = s.selLevel := rfl
@[simp] theorem refuseCommand_stAddr (s : State) : (refuseCommand s).stAddr = s.stAddr := rfl
@[simp] theorem refuseCommand_argX (s : State) : (refuseCommand s).argX = s.argX := rfl
@[simp] theorem refuseCommand_argY (s : State) : (refuseCommand s).argY = s.argY := rfl
@[simp] theorem refuseCommand_arg (s : State) : (refuseCommand s).arg = s.arg := rfl
@[simp] theorem refuseCommand_res (s : State) : (refuseCommand s).res = s.res := rfl
@[simp] theorem refuseCommand_unit (s : State) : (refuseCommand s).unit = s.unit := rfl
@[simp] theorem refuseCommand_blk (s : State) : (refuseCommand s).blk = s.blk := rfl
@[simp] theorem refuseCommand_params (s : State) : (refuseCommand s).params = s.params := rfl
@[simp] theorem refuseCommand_input (s : State) : (refuseCommand s).input = s.input := rfl
@[simp] theorem refuseCommand_script (s : State) : (refuseCommand s).script = s.script := rfl
@[simp] theorem refuseCommand_observed (s : State) : (refuseCommand s).observed = s.observed := rfl

/-! ### hostReset -/

@[simp] theorem hostReset_phase (s : State) : (hostReset s).phase = .idle := rfl
@[simp] theorem hostReset_err (s : State) : (hostReset s).err = none := rfl
@[simp] theorem hostReset_cmdErr (s : State) : (hostReset s).cmdErr = false := rfl
@[simp] theorem hostReset_fmt (s : State) : (hostReset s).fmt = none := rfl
@[simp] theorem hostReset_probe (s : State) : (hostReset s).probe = false := rfl
@[simp] theorem hostReset_pos (s : State) : (hostReset s).pos = 0 := rfl
@[simp] theorem hostReset_levelIdx (s : State) : (hostReset s).levelIdx = 0 := rfl
@[simp] theorem hostReset_mip (s : State) : (hostReset s).mip = [] := rfl
@[simp] theorem hostReset_mipCnt (s : State) : (hostReset s).mipCnt = 0 := rfl
@[simp] theorem hostReset_outW (s : State) : (hostReset s).outW = 0 := rfl
@[simp] theorem hostReset_outH (s : State) : (hostReset s).outH = 0 := rfl
@[simp] theorem hostReset_outDepth (s : State) : (hostReset s).outDepth = 0 := rfl
@[simp] theorem hostReset_hdrw (s : State) : (hostReset s).hdrw = Vector.replicate 31 0 := rfl
@[simp] theorem hostReset_selLevel (s : State) : (hostReset s).selLevel = 0 := rfl
@[simp] theorem hostReset_stAddr (s : State) : (hostReset s).stAddr = 0 := rfl
@[simp] theorem hostReset_argX (s : State) : (hostReset s).argX = 0 := rfl
@[simp] theorem hostReset_argY (s : State) : (hostReset s).argY = 0 := rfl
@[simp] theorem hostReset_arg (s : State) : (hostReset s).arg = Sample.zero := rfl
@[simp] theorem hostReset_res (s : State) : (hostReset s).res = Sample.zero := rfl
@[simp] theorem hostReset_unit (s : State) : (hostReset s).unit = 0 := rfl
@[simp] theorem hostReset_blk (s : State) : (hostReset s).blk = 0 := rfl
@[simp] theorem hostReset_params (s : State) : (hostReset s).params = s.params := rfl
@[simp] theorem hostReset_input (s : State) : (hostReset s).input = s.input := rfl
@[simp] theorem hostReset_script (s : State) : (hostReset s).script = s.script := rfl
@[simp] theorem hostReset_observed (s : State) : (hostReset s).observed = s.observed := rfl

end Sys2Proof.Machine
end

