-- ==== Sys2Proof/Laws/Parser.lean ====
section
/-! SUPPORT. What a decode call does, said once: phase by phase, the loop of BUILD_MIP, and the whole call
(43_container_parser.md R191 to R212). -/

namespace Sys2Proof.Machine

/-! ### Running phases -/

/-- A resting phase has no transition (R191). -/
theorem runPhases_resting (n : Nat) (s : State) (h : resting s.phase = true) : runPhases n s = .next s := by
  cases n <;> simp [runPhases, h]

/-- One transition. -/
theorem runPhases_next (n : Nat) (s t : State) (h : resting s.phase = false) (hs : phaseStep s = .next t) :
    runPhases (n+1) s = runPhases n t := by
  simp [runPhases, h, hs]

/-- A transition that is refused ends the run. -/
theorem runPhases_refused (n : Nat) (s : State) (r : Refusal) (h : resting s.phase = false) (hs : phaseStep s =
    .refused r) :
    runPhases (n+1) s = .refused r := by
  simp [runPhases, h, hs]

/-- A run continued. -/
theorem runPhases_add : ∀ n m s t, runPhases n s = .next t → runPhases (n + m) s = runPhases m t := by
  intro n
  induction n with
  | zero => intro m s t h; simp [runPhases] at h; subst h; rw [Nat.zero_add]
  | succ n ih =>
    intro m s t h
    rw [show n + 1 + m = (n + m) + 1 by omega]
    unfold runPhases at h
    split at h
    · rename_i h1; cases h; rw [runPhases_resting _ _ h1, runPhases_resting _ _ h1]
    · rename_i h1
      cases hp : phaseStep s with
      | next u => rw [hp] at h; rw [runPhases_next _ _ _ (by simpa using h1) hp]; exact ih m u t h
      | fault r => rw [hp] at h; cases h
      | refused r => rw [hp] at h; cases h

/-- A run that has come to rest stays there. -/
theorem runPhases_more : ∀ n s t, runPhases n s = .next t → resting t.phase = true → ∀ m, n ≤ m →
    runPhases m s = .next t := by
  intro n
  induction n with
  | zero => intro s t h hr m _; simp [runPhases] at h; subst h; exact runPhases_resting _ _ hr
  | succ n ih =>
    intro s t h hr m hm
    obtain ⟨k, rfl⟩ := Nat.exists_eq_add_of_le hm
    rw [show n + 1 + k = (n + k) + 1 by omega]
    unfold runPhases at h ⊢
    split at h
    · rename_i h1; rw [if_pos h1]; exact h
    · rename_i h1; rw [if_neg h1]
      cases hp : phaseStep s with
      | next u => rw [hp] at h; exact ih u t h hr (n+k) (by omega)
      | fault r => rw [hp] at h; cases h
      | refused r => rw [hp] at h; cases h

/-! ### The phases -/

/-- Header word `i` of the bytes READ_HEADER reads is the stream's word `i` (R197). -/
theorem headerWord_eq_streamWord (d : List Byte) (i : Nat) (h : i < 31) :
    headerWord ((d.drop 4).take 124) i = streamWord d i := by
  have hg : ∀ j, j < 4 → ((d.drop 4).take 124).getD (4 * i + j) 0 = (d.drop (4 + 4 * i)).getD j 0 := by
    intro j hj
    simp only [List.getD_eq_getElem?_getD, List.getElem?_take, List.getElem?_drop]
    rw [if_pos (by omega)]
    congr 2; omega
  unfold headerWord streamWord
  have h0 := hg 0 (by omega)
  rw [Nat.add_zero] at h0
  rw [h0, hg 1 (by omega), hg 2 (by omega), hg 3 (by omega), leBits, leBits, leNat_take4]

/-- Register `i` of the loaded header. -/
theorem getElem_headerWords (d : List Byte) (i : Nat) (h : i < 31) : (headerWords d)[i] = headerWord d i := by
  simp [headerWords]

/-- The state in READ_HEADER, the magic consumed. -/
def afterMagic (b : Bool) (s : State) : State := { beginCall b s with pos := 4, phase := .readHeader }

/-- The header registers loaded from a stream. -/
def streamHeader (d : List Byte) : Vector Word 31 := headerWords ((d.drop 4).take 124)

/-- The state with the header consumed and loaded, no test made yet. -/
def afterHeader (b : Bool) (s : State) : State :=
  { beginCall b s with
      pos := BitVec.ofNat 64 (min 128 s.input.length), phase := .readHeader, hdrw := streamHeader s.input }

/-- READ_MAGIC on a wrong or short magic (R194). -/
theorem readMagic_wrong (b : Bool) (s : State) (hm : s.input.take 4 ≠ [0x44, 0x44, 0x53, 0x20]) :
   readMagic (beginCall b s) = { beginCall b s with
       phase := .failed, err := some .badMagic, pos := BitVec.ofNat 64 (min 4 s.input.length) } := by
  have hd : streamTake 4 (beginCall b s) = s.input.take 4 := by
    simp [streamTake, beginCall]
  unfold readMagic
  simp only [hd]
  have hm' : s.input.take 4 ≠ ddsMagic := hm
  rw [if_pos (Or.inr hm')]
  simp only [raiseError, streamAdvance, hd, List.length_take]
  simp [beginCall]

/-- READ_MAGIC on the magic (R194). -/
theorem readMagic_right (b : Bool) (s : State) (hm : s.input.take 4 = [0x44, 0x44, 0x53, 0x20]) :
   readMagic (beginCall b s) = afterMagic b s := by
  have hd : streamTake 4 (beginCall b s) = s.input.take 4 := by
    simp [streamTake, beginCall]
  unfold readMagic
  simp only [hd, hm]
  rw [if_neg (by simp [ddsMagic])]
  unfold streamAdvance; rw [hd, hm]
  simp [State.setPhase, afterMagic, beginCall]

/-- A stream that begins with the magic has its four bytes. -/
theorem four_le_length {d : List Byte} (hm : d.take 4 = [0x44, 0x44, 0x53, 0x20]) : 4 ≤ d.length := by
  have := congrArg List.length hm
  simp at this; omega

/-- The bytes READ_HEADER reads. -/
theorem streamTake_header (b : Bool) (s : State) : streamTake headerBytes (afterMagic b s) =
    (s.input.drop 4).take 124 := by
  simp [streamTake, afterMagic, beginCall, headerBytes]

/-- The header consumed and loaded. -/
theorem loadHeader_afterMagic (b : Bool) (s : State) (hm : s.input.take 4 = [0x44, 0x44, 0x53, 0x20]) :
   (streamAdvance headerBytes (afterMagic b s)).loadHeader ((s.input.drop 4).take 124) = afterHeader b s := by
  have h4 := four_le_length hm
  unfold streamAdvance
  rw [streamTake_header]
  simp only [State.loadHeader, afterMagic, afterHeader, streamHeader, beginCall]
  congr 1
  apply BitVec.eq_of_toNat_eq
  simp
  omega

/-- The loaded registers are the words of the stream (R31). -/
theorem getElem_afterHeader (b : Bool) (s : State) (i : Nat) (h : i < 31) : (afterHeader b s).hdrw[i] =
    streamWord s.input i := by
  show (headerWords _)[i] = _
  rw [getElem_headerWords _ _ h, headerWord_eq_streamWord _ _ h]

/-- READ_HEADER: the short read, the size, the tag (R195, R196). -/
theorem readHeader_afterMagic (b : Bool) (s : State) (hm : s.input.take 4 = [0x44, 0x44, 0x53, 0x20]) :
  readHeader (afterMagic b s) =
   if s.input.length < 128 ∨ streamWord s.input 0 ≠ 124 then raiseError .badHeader (afterHeader b s)
   else if streamWord s.input 20 = 0x30315844 then raiseError .unsupportedExtension (afterHeader b s)
   else (afterHeader b s).setPhase .validateFlags := by
  have h4 := four_le_length hm
  unfold readHeader
  rw [streamTake_header]
  simp only [loadHeader_afterMagic b s hm, State.hSize, State.pfFourCC,
      getElem_afterHeader b s _ (show 0 < 31 by omega), getElem_afterHeader b s _ (show 20 < 31 by omega)]
  have : ((s.input.drop 4).take 124).length < headerBytes ↔ s.input.length < 128 := by
    simp [headerBytes]; omega
  simp only [this, tagDx10]
  by_cases h1 : s.input.length < 128
  · simp [h1]
  · by_cases h2 : streamWord s.input 0 = 124
    · rw [if_neg h1, if_neg (not_not.2 h2), if_neg (c := _ ∨ _) (by tauto)]; rfl
    · rw [if_neg h1, if_pos h2, if_pos (c := _ ∨ _) (by tauto)]

/-- The state in which VALIDATE_FLAGS has passed (R199, R200). -/
def afterFlags (b : Bool) (s : State) : State :=
  { afterHeader b s with
      mipCnt := streamMipCount s.params s.input, outW := streamWord s.input 3, outH :=
      streamWord s.input 2, outDepth := 16, phase := (if b = true then Phase.done else Phase.classify) }

/-- VALIDATE_FLAGS (R198 to R200). -/
theorem validateFlags_afterHeader (b : Bool) (s : State) :
  validateFlags ((afterHeader b s).setPhase .validateFlags) =
   if streamFlagsPresent s.params s.input then afterFlags b s
   else { afterHeader b s with phase := .failed, err := some .missingFields } := by
  have e : ((afterHeader b s).setPhase .validateFlags).params = s.params := rfl
  have g : ∀ i (h : i < 31), ((afterHeader b s).setPhase .validateFlags).hdrw[i] = streamWord s.input i :=
    fun i h => getElem_afterHeader b s i h
  unfold validateFlags
  simp only [requiredPresent, requiredFlags, e, State.hFlags, g, effectiveMipCount, State.hWidth, State.hHeight,
      State.hMipCount, flagSet, streamFlagsPresent, beq_iff_eq]
  split
  · simp only [State.setProbeOutputs, State.setPhase, afterFlags, streamMipCount, bne_iff_ne, ne_eq]
    congr 1
  · rfl

/-- The state in BUILD_MIP before its first turn (R201). -/
def afterClassify (f : PixelFormat) (s : State) : State :=
  { afterFlags false s with fmt := some f, levelIdx := 0, phase := .buildMip }

/-- CLASSIFY (R201). -/
theorem classifyFormat_afterFlags (s : State) :
   classifyFormat (afterFlags false s) = match streamFormat s.params s.input with
    | some f => afterClassify f s
    | none => { afterFlags false s with phase := .failed, err := some .unsupportedFormat } := by
  have g : ∀ i (h : i < 31), (afterFlags false s).hdrw[i] = streamWord s.input i :=
    fun i h => getElem_afterHeader false s i h
  have : classifyHeader (afterFlags false s) = streamFormat s.params s.input := by
    simp only [classifyHeader, streamFormat, State.pfFlags, State.pfFourCC, State.pfRMask, State.pfGMask,
        State.pfBMask, State.pfAMask, g]
    rfl
  unfold classifyFormat
  rw [this]
  cases streamFormat s.params s.input <;> rfl

/-- A decode call up to the loop of BUILD_MIP. -/
theorem decodeCall_cases (b : Bool) (s : State) (hl : s.input.length < 2 ^ 64) :
  decodeCall b s =
   if s.input.take 4 ≠ [0x44, 0x44, 0x53, 0x20] then .next { beginCall b s with
       phase := .failed, err := some .badMagic, pos := BitVec.ofNat 64 (min 4 s.input.length) }
   else if s.input.length < 128 ∨ streamWord s.input 0 ≠ 124 then .next (raiseError .badHeader (afterHeader b s))
   else if streamWord s.input 20 = 0x30315844 then .next (raiseError .unsupportedExtension (afterHeader b s))
   else if ¬ streamFlagsPresent s.params s.input then .next { afterHeader b s with
       phase := .failed, err := some .missingFields }
   else if b then .next (afterFlags true s)
   else match streamFormat s.params s.input with
    | none => .next { afterFlags false s with phase := .failed, err := some .unsupportedFormat }
    | some f => runPhases ((streamMipCount s.params s.input).toNat + 1) (afterClassify f s) := by
  unfold decodeCall
  rw [if_pos hl]
  rw [runPhases_next 3 (beginCall b s) _ rfl rfl]
  by_cases hm : s.input.take 4 = [0x44, 0x44, 0x53, 0x20]
  · rw [readMagic_right b s hm, runPhases_next 2 (afterMagic b s) _ rfl rfl, readHeader_afterMagic b s hm]
    rw [if_neg (not_not.2 hm)]
    by_cases h1 : s.input.length < 128 ∨ streamWord s.input 0 ≠ 124
    · rw [if_pos h1, if_pos h1, runPhases_resting _ _ rfl]; simp only; rw [runPhases_resting _ _ rfl]
    · rw [if_neg h1, if_neg h1]
      by_cases h2 : streamWord s.input 20 = 0x30315844
      · rw [if_pos h2, if_pos h2, runPhases_resting _ _ rfl]; simp only; rw [runPhases_resting _ _ rfl]
      · rw [if_neg h2, if_neg h2, runPhases_next 1 ((afterHeader b s).setPhase .validateFlags) _ rfl rfl,
          validateFlags_afterHeader]
        by_cases hf : streamFlagsPresent s.params s.input
        · rw [if_pos hf, if_neg (not_not.2 hf)]
          cases b
          · rw [runPhases_next 0 (afterFlags false s) _ rfl rfl, classifyFormat_afterFlags]
            cases streamFormat s.params s.input with
            | none => simp only; rw [runPhases_resting _ _ rfl]; simp only; rw [runPhases_resting _ _ rfl]; rfl
            | some f => simp only [runPhases]; rfl
          · rw [runPhases_resting _ (afterFlags true s) rfl]; simp only; rw [runPhases_resting _ (afterFlags true s) rfl]; rfl
        · rw [if_neg hf, if_pos hf]
          rw [runPhases_resting _ _ rfl]; simp only; rw [runPhases_resting _ _ rfl]
  · rw [readMagic_wrong b s hm, if_pos hm]
    rw [runPhases_resting _ _ rfl]; simp only; rw [runPhases_resting _ _ rfl]

/-! ### The loop of BUILD_MIP -/

/-- The state in BUILD_MIP with `i` levels built and `pos` bytes consumed. -/
def building (f : PixelFormat) (s : State) (i pos : Nat) (acc : List Level) : State :=
  { afterClassify f s with levelIdx := BitVec.ofNat 32 i, mip := acc, pos := BitVec.ofNat 64 pos }

/-- The mip count of the stream. -/
def declaredLevels (s : State) : Nat := (streamMipCount s.params s.input).toNat

/-- The state the loop leaves, by the value of the loop of R212. A short read leaves the index of the level that came up
short, the levels before it in the stream in full. -/
def LevelsEnd (f : PixelFormat) (s : State) (r : CallResult) (t : State) : Prop :=
  match r with
  | .failed e pos => e = .truncatedData ∧ pos = s.input.length ∧ ∃ j, j < declaredLevels s ∧
      128 + levelBytes s.params s.input f j ≤ s.input.length ∧
      s.input.length < 128 + levelBytes s.params s.input f (j + 1) ∧
      t = { building f s j pos [] with phase := .failed, err := some e }
  | .probed _ _ _ _ => False
  | .parsed g levels pos => g = f ∧ levels.length = declaredLevels s ∧ pos = 128 + (levels.map Level.len).sum ∧
      pos ≤ s.input.length ∧ t = { building f s (declaredLevels s) pos levels with phase := .done }

/-- The mip count is a u32. -/
theorem declaredLevels_lt (s : State) : declaredLevels s < 2^32 := (streamMipCount s.params s.input).isLt

/-- Level `i` of the stream, not yet filled (R206, R207). -/
def streamLevel (f : PixelFormat) (s : State) (i : Nat) : Level :=
  newLevel f (mipDim s.params (streamWord s.input 3) i) (mipDim s.params (streamWord s.input 2) i)

/-- The level BUILD_MIP builds next (R206, R207). -/
theorem levelFor_building (f : PixelFormat) (s : State) (i pos : Nat) (acc : List Level) :
    levelFor (building f s i pos acc) i = streamLevel f s i := by
  have g3 : (building f s i pos acc).hdrw[3] = streamWord s.input 3 := getElem_afterHeader false s 3 (by omega)
  have g2 : (building f s i pos acc).hdrw[2] = streamWord s.input 2 := getElem_afterHeader false s 2 (by omega)
  simp only [levelFor, State.hWidth, State.hHeight, g3, g2]
  rfl

/-- The bytes of the first `i + 1` levels. -/
theorem levelBytes_succ (f : PixelFormat) (s : State) (i : Nat) :
    levelBytes s.params s.input f (i + 1) = levelBytes s.params s.input f i + (streamLevel f s i).len := rfl

/-- More levels, no fewer bytes. -/
theorem levelBytes_mono (p : Params) (d : List Byte) (f : PixelFormat) {i n : Nat} (h : i ≤ n) :
    levelBytes p d f i ≤ levelBytes p d f n := by
  induction h with
  | refl => exact Nat.le_refl _
  | step _ ih => exact Nat.le_trans ih (Nat.le_add_right _ _)

/-- Reading one level in BUILD_MIP: short, or kept (R207, R208). -/
theorem readLevel_building (f : PixelFormat) (s : State) (hl : s.input.length < 2 ^ 64) (m : Level) (i pos : Nat)
    (acc : List Level) (hp : pos ≤ s.input.length) :
    readLevel m (building f s i pos acc) =
      if s.input.length - pos < m.len then
        { building f s i s.input.length [] with phase := .failed, err := some .truncatedData }
      else building f s (i + 1) (pos + m.len) (acc ++ [fillLevel m ((s.input.drop pos).take m.len)]) := by
  have hp' : (BitVec.ofNat 64 pos).toNat = pos := by rw [BitVec.toNat_ofNat, Nat.mod_eq_of_lt (by omega)]
  have ht : streamTake m.len (building f s i pos acc) = (s.input.drop pos).take m.len := by
    show (s.input.drop (BitVec.ofNat 64 pos).toNat).take
      (min m.len (s.input.length - (BitVec.ofNat 64 pos).toNat)) = _
    rw [hp']
    conv_rhs => rw [← List.take_length (l := s.input.drop pos), List.take_take, List.length_drop]
  have htl : ((s.input.drop pos).take m.len).length = min m.len (s.input.length - pos) := by simp
  unfold readLevel streamAdvance
  simp only [ht, htl]
  split
  · rw [if_pos (by omega), Nat.min_eq_right (by omega)]
    simp only [raiseError, building]
    congr 1
    apply BitVec.eq_of_toNat_eq; simp; omega
  · rw [if_neg (by omega), Nat.min_eq_left (by omega)]
    simp only [State.appendLevel, building]
    congr 1 <;> (apply BitVec.eq_of_toNat_eq; simp)

/-- All one turn of BUILD_MIP can do while levels are left (R205, R210): a bounded capacity refuses it, or it reads one
level. -/
theorem phaseStep_building (f : PixelFormat) (s : State) (i pos : Nat) (acc : List Level) (hi : i < declaredLevels s)
    (hs : (acc.map Level.len).sum = levelBytes s.params s.input f i) :
    phaseStep (building f s i pos acc) =
      if exceeds s.params.maxMipLevels (declaredLevels s) then .refused .levelTableBound
      else if exceeds s.params.storeBytes (levelBytes s.params s.input f (i + 1)) then .refused .storeBound
      else .next (readLevel (streamLevel f s i) (building f s i pos acc)) := by
  have hc := declaredLevels_lt s
  have hi' : (building f s i pos acc).levelIdx.toNat = i := by
    show (BitVec.ofNat 32 i).toNat = i
    rw [BitVec.toNat_ofNat, Nat.mod_eq_of_lt (by omega)]
  have hst : (building f s i pos acc).storeTotal = levelBytes s.params s.input f i := hs
  show buildMip (building f s i pos acc) = _
  unfold buildMip
  rw [hi', if_pos (show i < (building f s i pos acc).mipCnt.toNat from hi), levelFor_building, hst, levelBytes_succ]
  rfl

/-- The last turn of BUILD_MIP (R209). -/
theorem phaseStep_building_last (f : PixelFormat) (s : State) (pos : Nat) (acc : List Level) :
    phaseStep (building f s (declaredLevels s) pos acc) =
      .next { building f s (declaredLevels s) pos acc with phase := .done } := by
  have hc := declaredLevels_lt s
  show buildMip _ = _
  unfold buildMip
  rw [if_neg]
  · rfl
  · show ¬ (BitVec.ofNat 32 (declaredLevels s)).toNat < declaredLevels s
    rw [BitVec.toNat_ofNat, Nat.mod_eq_of_lt hc]; omega

/-- A bounded capacity that is exceeded (R210). -/
theorem exceeds_iff (bound : Option Nat) (n : Nat) : exceeds bound n = true ↔ ∃ b, bound = some b ∧ b < n := by
  cases bound <;> simp [exceeds]

/-- All the loop can do: end as the loop of R212 says, or be refused at a bounded capacity. -/
theorem runPhases_building (f : PixelFormat) (s : State) (hl : s.input.length < 2^64) :
  ∀ (n i pos : Nat) (acc : List Level), i + n = declaredLevels s → pos ≤ s.input.length → acc.length = i →
      pos = 128 + (acc.map Level.len).sum → (acc.map Level.len).sum = levelBytes s.params s.input f i →
   (∃ t, runPhases (n+1) (building f s i pos acc) = .next t ∧
       LevelsEnd f s (callLevels s.params f s.input n i pos acc) t) ∨
   ((∃ b, s.params.maxMipLevels = some b ∧ b < declaredLevels s) ∧
       runPhases (n+1) (building f s i pos acc) = .refused .levelTableBound) ∨
   ((∃ b, s.params.storeBytes = some b ∧ b < levelBytes s.params s.input f (declaredLevels s)) ∧
       runPhases (n+1) (building f s i pos acc) = .refused .storeBound) := by
  intro n
  induction n with
  | zero =>
    intro i pos acc h1 h2 h3 h4 h5
    obtain rfl : i = declaredLevels s := by omega
    refine .inl ⟨{ building f s (declaredLevels s) pos acc with phase := .done }, ?_, rfl, h3, h4, h2, rfl⟩
    rw [runPhases_next 0 _ _ rfl (phaseStep_building_last f s pos acc), runPhases_resting _ _ rfl]
  | succ n ih =>
    intro i pos acc h1 h2 h3 h4 h5
    have hstep := phaseStep_building f s i pos acc (by omega) h5
    have hbytes := levelBytes_succ f s i
    by_cases hx : exceeds s.params.maxMipLevels (declaredLevels s) = true
    · rw [if_pos hx] at hstep
      exact .inr (.inl ⟨(exceeds_iff _ _).1 hx, runPhases_refused _ _ _ rfl hstep⟩)
    rw [if_neg hx] at hstep
    by_cases hy : exceeds s.params.storeBytes (levelBytes s.params s.input f (i + 1)) = true
    · rw [if_pos hy] at hstep
      obtain ⟨b, hb, hlt⟩ := (exceeds_iff _ _).1 hy
      have hm := levelBytes_mono s.params s.input f (show i + 1 ≤ declaredLevels s by omega)
      exact .inr (.inr ⟨⟨b, hb, by omega⟩, runPhases_refused _ _ _ rfl hstep⟩)
    rw [if_neg hy, readLevel_building f s hl _ i pos acc h2] at hstep
    by_cases hshort : s.input.length - pos < (streamLevel f s i).len
    · rw [if_pos hshort] at hstep
      have hcall : callLevels s.params f s.input (n+1) i pos acc = .failed .truncatedData s.input.length :=
        if_pos hshort
      refine .inl ⟨{ building f s i s.input.length [] with phase := .failed, err := some .truncatedData }, ?_, ?_⟩
      · rw [runPhases_next _ _ _ rfl hstep, runPhases_resting _ _ rfl]
      · rw [hcall]
        exact ⟨rfl, rfl, i, by omega, by omega, by omega, rfl⟩
    · rw [if_neg hshort] at hstep
      have hcall : callLevels s.params f s.input (n+1) i pos acc =
          callLevels s.params f s.input n (i+1) (pos + (streamLevel f s i).len)
            (acc ++ [fillLevel (streamLevel f s i) ((s.input.drop pos).take (streamLevel f s i).len)]) :=
        if_neg hshort
      rw [runPhases_next _ _ _ rfl hstep, hcall]
      apply ih
      · omega
      · omega
      · simp [h3]
      · simp [h4, fillLevel]; omega
      · simp [h5, hbytes, fillLevel]

/-- The loop comes to level `i` when no capacity is exceeded before it and the stream holds the levels before it. -/
theorem runPhases_building_to (f : PixelFormat) (s : State) (hl : s.input.length < 2^64)
    (hm : ¬ exceeds s.params.maxMipLevels (declaredLevels s) = true) :
    ∀ i, i ≤ declaredLevels s → 128 + levelBytes s.params s.input f i ≤ s.input.length →
      ¬ exceeds s.params.storeBytes (levelBytes s.params s.input f i) = true →
      ∃ acc, (acc.map Level.len).sum = levelBytes s.params s.input f i ∧
        ∀ n, runPhases (i + n) (building f s 0 128 []) =
          runPhases n (building f s i (128 + levelBytes s.params s.input f i) acc) := by
  intro i
  induction i with
  | zero => intro _ _ _; exact ⟨[], rfl, fun n => by rw [Nat.zero_add]; rfl⟩
  | succ i ih =>
    intro hi hlen hb
    have hbytes := levelBytes_succ f s i
    obtain ⟨acc, hacc, hrun⟩ := ih (by omega) (by omega) fun h => hb <| by
      obtain ⟨b, e, hlt⟩ := (exceeds_iff _ _).1 h
      exact (exceeds_iff _ _).2 ⟨b, e, by omega⟩
    have hstep := phaseStep_building f s i (128 + levelBytes s.params s.input f i) acc (by omega) hacc
    rw [if_neg hm, if_neg hb, readLevel_building f s hl _ i _ acc (by omega), if_neg (by omega)] at hstep
    refine ⟨acc ++ [fillLevel (streamLevel f s i)
      ((s.input.drop (128 + levelBytes s.params s.input f i)).take (streamLevel f s i).len)], ?_, fun n => ?_⟩
    · simp [hacc, hbytes, fillLevel]
    · rw [show i + 1 + n = i + (n + 1) by omega, hrun, runPhases_next _ _ _ rfl hstep, hbytes, Nat.add_assoc]

/-- The loop begins with no level and 128 bytes consumed. -/
theorem afterClassify_eq_building (f : PixelFormat) (s : State) (h : 128 ≤ s.input.length) : afterClassify f s =
    building f s 0 128 [] := by
  simp only [building, afterClassify, afterFlags, afterHeader, beginCall]
  congr 1
  rw [Nat.min_eq_left h]

/-- POS after the header. -/
theorem afterHeader_pos (b : Bool) (s : State) (hl : s.input.length < 2^64) : (afterHeader b s).pos.toNat =
    min 128 s.input.length := by
  show (BitVec.ofNat 64 _).toNat = _
  rw [BitVec.toNat_ofNat, Nat.mod_eq_of_lt (by omega)]

/-- The levels of a list read as the stream from byte 128 on, one after another. -/
def LevelsRead (d : List Byte) (levels : List Level) : Prop :=
  ∀ i m, levels[i]? = some m → ∀ j, j < m.len →
    d[128 + ((levels.take i).map Level.len).sum + j]? = some (Memory.read m.store j)

/-- One more level, filled from the next bytes of the stream. -/
theorem LevelsRead.append {d : List Byte} {levels : List Level} (h : LevelsRead d levels) (m : Level) (pos : Nat)
    (hpos : pos = 128 + (levels.map Level.len).sum) (hlen : pos + m.len ≤ d.length) :
    LevelsRead d (levels ++ [fillLevel m ((d.drop pos).take m.len)]) := by
  intro i m' hi j hj
  rcases Nat.lt_trichotomy i levels.length with hlt | rfl | hgt
  · rw [List.getElem?_append_left hlt] at hi
    rw [List.take_append_of_le_length (by omega)]
    exact h i m' hi j hj
  · obtain rfl : fillLevel m ((d.drop pos).take m.len) = m' := by simpa using hi
    have hj' : j < m.len := hj
    rw [List.take_left, ← hpos, read_fillLevel, List.getD_eq_getElem?_getD, List.getElem?_take, if_pos hj',
      List.getElem?_drop, List.getElem?_eq_getElem (by omega)]
    rfl
  · rw [List.getElem?_eq_none (by simp; omega)] at hi
    cases hi

/-- The loop of R212 fills every level from its bytes of the stream. -/
theorem callLevels_read (p : Params) (f : PixelFormat) (d : List Byte) :
    ∀ n i pos acc g levels q, pos = 128 + (acc.map Level.len).sum → pos ≤ d.length → LevelsRead d acc →
      callLevels p f d n i pos acc = .parsed g levels q → LevelsRead d levels := by
  intro n
  induction n with
  | zero => intro i pos acc g levels q _ _ ha h; cases h; exact ha
  | succ n ih =>
    intro i pos acc g levels q hpos hle ha h
    simp only [callLevels] at h
    split at h
    · cases h
    · refine ih _ _ _ _ _ _ ?_ ?_ (ha.append _ pos hpos (by omega)) h
      · simp [hpos, fillLevel]; omega
      · omega

/-! ### The whole call -/

/-- Every way a decode call comes to an end, with the state it leaves. -/
inductive CallEnd (b : Bool) (s : State) : State → Prop
  | magic : s.input.take 4 ≠ [0x44, 0x44, 0x53, 0x20] → CallEnd b s { beginCall b s with
      phase := .failed, err := some .badMagic, pos := BitVec.ofNat 64 (min 4 s.input.length) }
  | header : s.input.take 4 = [0x44, 0x44, 0x53, 0x20] → (s.input.length < 128 ∨ streamWord s.input 0 ≠ 124) →
      CallEnd b s (raiseError .badHeader (afterHeader b s))
  | ext : s.input.take 4 = [0x44, 0x44, 0x53, 0x20] → 128 ≤ s.input.length → streamWord s.input 0 = 124 →
      streamWord s.input 20 = 0x30315844 → CallEnd b s (raiseError .unsupportedExtension (afterHeader b s))
  | flags : s.input.take 4 = [0x44, 0x44, 0x53, 0x20] → 128 ≤ s.input.length → streamWord s.input 0 = 124 →
      streamWord s.input 20 ≠ 0x30315844 → ¬ streamFlagsPresent s.params s.input →
      CallEnd b s { afterHeader b s with
      phase := .failed, err := some .missingFields }
  | probed : b = true → s.input.take 4 = [0x44, 0x44, 0x53, 0x20] → 128 ≤ s.input.length →
      streamWord s.input 0 = 124 → streamWord s.input 20 ≠ 0x30315844 → streamFlagsPresent s.params s.input →
      CallEnd b s (afterFlags true s)
  | format : b = false → s.input.take 4 = [0x44, 0x44, 0x53, 0x20] → 128 ≤ s.input.length →
      streamWord s.input 0 = 124 → streamWord s.input 20 ≠ 0x30315844 → streamFlagsPresent s.params s.input →
      streamFormat s.params s.input = none → CallEnd b s { afterFlags false s with
      phase := .failed, err := some .unsupportedFormat }
  | levels (f t) : b = false → s.input.take 4 = [0x44, 0x44, 0x53, 0x20] → 128 ≤ s.input.length →
      streamWord s.input 0 = 124 → streamWord s.input 20 ≠ 0x30315844 → streamFlagsPresent s.params s.input →
      streamFormat s.params s.input = some f →
      LevelsEnd f s (callLevels s.params f s.input (declaredLevels s) 0 128 []) t → CallEnd b s t

/-- All a decode call can do on a stream the spec admits. -/
theorem decodeCall_ends (b : Bool) (s : State) (hl : s.input.length < 2^64) :
   (∃ t, decodeCall b s = .next t ∧ CallEnd b s t) ∨
   (b = false ∧ (∃ c, s.params.maxMipLevels = some c ∧ c < declaredLevels s) ∧
      decodeCall b s = .refused .levelTableBound) ∨
   (b = false ∧ (∃ f c, streamFormat s.params s.input = some f ∧ s.params.storeBytes = some c ∧
        c < levelBytes s.params s.input f (declaredLevels s)) ∧ decodeCall b s = .refused .storeBound) := by
  rw [decodeCall_cases b s hl]
  by_cases hm : s.input.take 4 ≠ [0x44, 0x44, 0x53, 0x20]
  · rw [if_pos hm]; exact .inl ⟨_, rfl, .magic hm⟩
  rw [if_neg hm]; rw [not_not] at hm
  by_cases h1 : s.input.length < 128 ∨ streamWord s.input 0 ≠ 124
  · rw [if_pos h1]; exact .inl ⟨_, rfl, .header hm h1⟩
  rw [if_neg h1]
  have h128 : 128 ≤ s.input.length := by by_contra h; exact h1 (.inl (by omega))
  have h0 : streamWord s.input 0 = 124 := by by_contra h; exact h1 (.inr h)
  by_cases h2 : streamWord s.input 20 = 0x30315844
  · rw [if_pos h2]; exact .inl ⟨_, rfl, .ext hm h128 h0 h2⟩
  rw [if_neg h2]
  by_cases h3 : ¬ streamFlagsPresent s.params s.input
  · rw [if_pos h3]; exact .inl ⟨_, rfl, .flags hm h128 h0 h2 h3⟩
  rw [if_neg h3]; rw [not_not] at h3
  cases b with
  | true => exact .inl ⟨_, rfl, .probed rfl hm h128 h0 h2 h3⟩
  | false =>
    rw [if_neg (by decide)]
    cases h4 : streamFormat s.params s.input with
    | none => exact .inl ⟨_, rfl, .format rfl hm h128 h0 h2 h3 h4⟩
    | some f =>
      simp only
      rw [afterClassify_eq_building f s h128]
      rcases runPhases_building f s hl (declaredLevels s) 0 128 [] (by omega) h128 rfl rfl rfl with
        ⟨t, h5, h6⟩ | ⟨h5, h6⟩ | ⟨⟨c, h5, h7⟩, h6⟩
      · exact .inl ⟨t, h5, .levels f t rfl hm h128 h0 h2 h3 h4 h6⟩
      · exact .inr (.inl ⟨by trivial, h5, h6⟩)
      · exact .inr (.inr ⟨by trivial, ⟨f, c, by trivial, h5, h7⟩, h6⟩)

/-- PARSE and PROBE are the decode call. -/
theorem exec_decodeCall (c : Instr) (s : State) (h : isDecodeCall c = true) : exec c s = decodeCall (decide (c =
    .probe)) s := by
  cases c <;> first | rfl | (simp [isDecodeCall] at h)

/-- The same, from the outcome. -/
theorem exec_decodeCall_next (c : Instr) (s t : State) (h : isDecodeCall c = true) (he : exec c s = .next t) :
   s.input.length < 2^64 ∧ CallEnd (decide (c = .probe)) s t := by
  rw [exec_decodeCall c s h] at he
  by_cases hl : s.input.length < 2^64
  · refine ⟨hl, ?_⟩
    rcases decodeCall_ends (decide (c = .probe)) s hl with ⟨t', h1, h2⟩ | ⟨-, -, h1⟩ | ⟨-, -, h1⟩
    · rw [h1] at he; cases he; exact h2
    · rw [h1] at he; cases he
    · rw [h1] at he; cases he
  · unfold decodeCall at he; rw [if_neg hl] at he; cases he

end Sys2Proof.Machine
end

