-- ==== Sys2Proof/Laws/PerInstr.lean ====
section
/-! SUPPORT. One fact per instruction as syntax: its fields pass the acceptance test of 30_encoding.md R84 and its word has
`z = 0`. -/

namespace Sys2Proof.Laws.LegalWord

/-- The instruction's fields are well formed, and its word carries them. -/
def Statement (i : Instr) : Prop :=
  instrWellFormed i = true ∧ commandFields (encode i) = instrFields i

theorem parse : Statement .parse := ⟨rfl, rfl⟩
theorem probe : Statement .probe := ⟨rfl, rfl⟩
theorem atPixel : Statement .atPixel := ⟨rfl, rfl⟩
theorem setPixel : Statement .setPixel := ⟨rfl, rfl⟩
theorem unpackBgra8888 : Statement .unpackBgra8888 := ⟨rfl, rfl⟩
theorem unpackBgr565 : Statement .unpackBgr565 := ⟨rfl, rfl⟩
theorem unpackBgra5551 : Statement .unpackBgra5551 := ⟨rfl, rfl⟩
theorem unpackBgra4444 : Statement .unpackBgra4444 := ⟨rfl, rfl⟩
theorem unpackRgb565 : Statement .unpackRgb565 := ⟨rfl, rfl⟩
theorem packBgra8888 : Statement .packBgra8888 := ⟨rfl, rfl⟩
theorem packBgr565 : Statement .packBgr565 := ⟨rfl, rfl⟩
theorem packBgra5551 : Statement .packBgra5551 := ⟨rfl, rfl⟩
theorem packBgra4444 : Statement .packBgra4444 := ⟨rfl, rfl⟩
theorem packRgb565 : Statement .packRgb565 := ⟨rfl, rfl⟩
theorem blkpixDxt1 : Statement .blkpixDxt1 := ⟨rfl, rfl⟩
theorem blkpixDxt3 : Statement .blkpixDxt3 := ⟨rfl, rfl⟩
theorem blkpixDxt5 : Statement .blkpixDxt5 := ⟨rfl, rfl⟩

end Sys2Proof.Laws.LegalWord
end

