-- ==== Sys2Proof/Laws/Step.lean ====
section
/-! SUPPORT. What AT, SET and BLKPIX and one step of the machine do, said once. -/

namespace Sys2Proof.Machine

/-! ### Operands -/

/-- The rectangle test is the rule's (42_pixel_buffer.md R161). -/
theorem inRect_iff (m : Level) (x y : Int) : inRect m x y = true ↔ inRectangle m x y := by
  simp [inRect, inRectangle, and_assoc]

/-- A coordinate that is no local block coordinate (41_block_decoder.md R146). -/
theorem localCoord_eq_none (v : Int) : localCoord v = none ↔ ¬ inBlock v := by
  unfold localCoord
  split
  · rename_i h; exact ⟨by simp, fun h2 => absurd h h2⟩
  · rename_i h; exact ⟨fun _ => h, fun _ => rfl⟩

/-- The local coordinates of two operands in `[0, 4)`, and the pixel number they name (00_scope.md R16). -/
theorem localCoord_inside (s : State) (h : inBlock s.argX.toInt ∧
    inBlock s.argY.toInt) : ∃ lx ly, localCoord s.x = some lx ∧ localCoord s.y = some ly ∧
    pixelNumber lx ly = (4 * s.argY.toInt + s.argX.toInt).toNat := by
  obtain ⟨h1, h2⟩ := h
  refine ⟨⟨s.argX.toInt.toNat, by omega⟩, ⟨s.argY.toInt.toNat, by omega⟩, ?_, ?_, ?_⟩
  · unfold localCoord State.x; rw [dif_pos h1]
  · unfold localCoord State.y; rw [dif_pos h2]
  · unfold pixelNumber; simp; omega

/-! ### AT, SET and BLKPIX -/

/-- All AT can do (42_pixel_buffer.md R170). -/
theorem execAt_cases (s : State) :
    (s.selected = none ∧ execAt s = .next (refuseCommand s)) ∨
    (∃ m, s.selected = some m ∧ inRect m s.x s.y = false ∧ execAt s = .next (s.setRes Sample.zero)) ∨
    (∃ m k, s.selected = some m ∧ inRect m s.x s.y = true ∧
      memRead m (offsetOf m s.x s.y) (unitSize m.fmt) = some k ∧
      execAt s = .next (s.setRes (unitSample s.params m.fmt k s.x s.y))) ∨
    (∃ m, s.selected = some m ∧ inRect m s.x s.y = true ∧
      memRead m (offsetOf m s.x s.y) (unitSize m.fmt) = none ∧ execAt s = .fault .storeAccess) := by
  unfold execAt sampleAt
  cases hs : s.selected with
  | none => exact .inl ⟨rfl, rfl⟩
  | some m =>
    right
    cases hr : inRect m s.x s.y with
    | false => exact .inl ⟨m, rfl, hr, by simp [hr]⟩
    | true =>
      right
      cases hk : memRead m (offsetOf m s.x s.y) (unitSize m.fmt) with
      | some k => exact .inl ⟨m, k, rfl, hr, hk, by simp [hr, hk]⟩
      | none => exact .inr ⟨m, rfl, hr, hk, by simp [hr, hk]⟩

/-- All SET can do on a packed level (42_pixel_buffer.md R175). -/
theorem setPacked_cases (m : Level) (f : PackedFormat) (s : State) :
    (inRect m s.x s.y = false ∧ setPacked m f s = .next s) ∨
    (∃ m', inRect m s.x s.y = true ∧ levelSet s.params m f s.x s.y s.arg = some m' ∧
      setPacked m f s = .next (s.setSelected m')) ∨
    (inRect m s.x s.y = true ∧ levelSet s.params m f s.x s.y s.arg = none ∧
      setPacked m f s = .fault .storeAccess) := by
  unfold setPacked
  cases hr : inRect m s.x s.y with
  | false => exact .inl ⟨rfl, rfl⟩
  | true =>
    right
    cases hm : levelSet s.params m f s.x s.y s.arg with
    | some m' => exact .inl ⟨m', rfl, rfl, rfl⟩
    | none => exact .inr ⟨rfl, rfl, rfl⟩

/-- All that SET changes of a level (42_pixel_buffer.md R175 step 5): its store, at the bytes of the pixel's unit. -/
theorem levelSet_some {p : Params} {m m' : Level} {f : PackedFormat} {x y : Int} {v : Sample}
    (h : levelSet p m f x y v = some m') :
    m' = { m with store := m'.store } ∧
      ∀ a : Nat, (a < offsetOf m x y ∨ offsetOf m x y + packedUnitSize f ≤ a) →
        Memory.read m'.store a = Memory.read m.store a :=
  ⟨memWrite_eq h, fun a ha => memWrite_outside h a (by rwa [length_bytesLE])⟩

/-- BLKPIX with its local coordinates in range (41_block_decoder.md R140 to R142). -/
theorem blkpixCommandOf_inside (s : State) (f lx ly) (h1 : localCoord s.x = some lx) (h2 : localCoord s.y =
    some ly) : blkpixCommandOf f s = .next { s with
    res := (blockPixel s.params f (s.blockBytes (blockUnitSize f)) lx ly) } := by
  unfold blkpixCommandOf; rw [h1, h2]; rfl

/-- BLKPIX with a coordinate out of range is refused (R146). -/
theorem blkpixCommandOf_outside (s : State) (f) (h : ¬ (inBlock s.argX.toInt ∧
    inBlock s.argY.toInt)) : blkpixCommandOf f s = .next { s with
    cmdErr := true } := by
  unfold blkpixCommandOf
  cases hx : localCoord s.x with
  | none => rfl
  | some lx =>
    cases hy : localCoord s.y with
    | none => rfl
    | some ly =>
      exfalso; apply h
      constructor
      · by_contra hn; rw [show localCoord s.x = none from (localCoord_eq_none _).2 hn] at hx; cases hx
      · by_contra hn; rw [show localCoord s.y = none from (localCoord_eq_none _).2 hn] at hy; cases hy

/-! ### The port and the step -/

/-- All a register write can change. -/
theorem writeReg_eq (r v) (s : State) : writeReg r v s = { s with
    selLevel := (writeReg r v s).selLevel, stAddr := (writeReg r v s).stAddr, argX :=
    (writeReg r v s).argX, argY := (writeReg r v s).argY, arg := (writeReg r v s).arg, unit :=
    (writeReg r v s).unit, blk := (writeReg r v s).blk } := by
  cases r <;> rfl

/-- All a step can do. -/
theorem step_cases (s t : State) (h : step s = .next t) :
   (s.script = [] ∧ t = s) ∨
   (∃ a rest, s.script = a :: rest ∧
     ((∃ n, a = .rd n ∧ t = { s with script := rest, observed := s.observed ++ [portRead n s] }) ∨
      (∃ d, a = .stream d ∧ t = { s with script := rest, input := d }) ∨
      (a = .reset ∧ t = hostReset { s with script := rest }) ∨
      (∃ n v, a = .wr n v ∧ regOfNumber n = none ∧ t = { s with script := rest }) ∨
      (∃ n v r, a = .wr n v ∧ regOfNumber n = some r ∧ r ≠ .cmd ∧ t = writeReg r v { s with script := rest }) ∨
      (∃ v i, a = .wr 0 v ∧ decodeCommand (BitVec.ofInt 8 v) = .ok i ∧ exec i { s with script := rest } = .next t) ∨
      (∃ v k, a = .wr 0 v ∧ decodeCommand (BitVec.ofInt 8 v) = .error k ∧ t = refuseCommand { s with
          script := rest }))) := by
  unfold step fetch at h
  cases hs : s.script with
  | nil => rw [hs] at h; cases h; exact .inl ⟨rfl, rfl⟩
  | cons a rest =>
    right
    rw [hs] at h
    refine ⟨a, rest, rfl, ?_⟩
    cases a with
    | rd n =>
      cases h
      refine .inl ⟨n, rfl, ?_⟩
      have : portRead n { s with script := rest } = portRead n s := by
        unfold portRead; split
        · rename_i r _; cases r <;> rfl
        · rfl
      rw [this]
    | stream d => cases h; exact .inr (.inl ⟨d, rfl, rfl⟩)
    | reset => cases h; exact .inr (.inr (.inl ⟨rfl, rfl⟩))
    | wr n v =>
      right; right; right
      simp only [hostAct, portWrite] at h
      cases hn : regOfNumber n with
      | none => rw [hn] at h; cases h; exact .inl ⟨n, v, rfl, hn, rfl⟩
      | some r =>
        rw [hn] at h
        by_cases hr : r = .cmd
        · subst hr
          have n0 : n = 0 := by
            unfold regOfNumber at hn
            split at hn <;> first | rfl | (simp at hn)
          subst n0
          simp only at h
          cases hd : decodeCommand (BitVec.ofInt 8 v) with
          | ok i => rw [hd] at h; exact .inr (.inr (.inl ⟨v, i, rfl, hd, h⟩))
          | error k => rw [hd] at h; cases h; exact .inr (.inr (.inr ⟨v, k, rfl, hd, rfl⟩))
        · right; left
          refine ⟨n, v, r, rfl, hn, hr, ?_⟩
          cases r <;> first | (exact absurd rfl hr) | (cases h; rfl)

end Sys2Proof.Machine
end

