-- ==== Sys2Proof/Tests/Slice0.lean ====
section
/-! SUPPORT. Tests: the checks refuse ill-formed terms, the words of the spec's opcode map, one-step vectors of the spec,
and for every statement with hypotheses a state that meets them. The expected values come from the rules' worked
examples and spec/95_test_vectors.md, each cited. -/

namespace Sys2Proof.Tests

open Sys2Proof Sys2Proof.Machine

set_option Elab.async false

/-! ### Helpers -/

/-- The next state of an outcome, if there is one. -/
def nextOf (o : Host.Outcome State Fault Refusal) : Option State :=
  match o with
  | .next t => some t
  | _ => none

/-- The refusal of an outcome, if there is one. -/
def refusalOf (o : Host.Outcome State Fault Refusal) : Option Refusal :=
  match o with
  | .refused r => some r
  | _ => none

/-- A field of the next state of an instruction. -/
def after {α : Type} (i : Instr) (s : State) (field : State → α) : Option α := (nextOf (exec i s)).map field

/-- A 128-byte file head by its fields (10_state.md R32): magic, then 31 words. -/
def head (size flags height width mips pfFlags tag r g b a : Word) : List Byte :=
  ddsMagic ++
    ([size, flags, height, width, 0, 0, mips] ++ List.replicate 11 0 ++ [32, pfFlags, tag, 0, r, g, b, a] ++
      List.replicate 5 0).flatMap (bytesLE 4)

/-- The bytes 0, 1, 2, ... -/
def ramp (n : Nat) : List Byte := (List.range n).map (BitVec.ofNat 8)

/-- The head of 95_test_vectors.md program P1: BGRA8888, 4 x 4, two levels. -/
def bgraHead : List Byte := head 124 0x21006 4 4 2 0x41 0 0xFF0000 0xFF00 0xFF 0xFF000000

/-- The stream of program P1: level 0 is the bytes 00 to 3F, level 1 the bytes C0 to CF. -/
def bgraStream : List Byte := bgraHead ++ ramp 64 ++ (ramp 16).map (0xC0 + ·)

/-- The DXT5 block of 41_block_decoder.md R142. -/
def dxt5Block : List Byte :=
  [0xFF, 0x00, 0x88, 0xC6, 0xFA, 0x88, 0xC6, 0xFA, 0x00, 0xF8, 0x1F, 0x00, 0xE4, 0x1B, 0x00, 0xFF]

/-- A reset unit to which a stream is offered. -/
def offered (d : List Byte) : State := { State.reset with input := d }

/-- The unit after a successful PARSE of program P1. -/
def packedState : State := (nextOf (exec .parse (offered bgraStream))).getD State.reset

/-- Level 0 of program P1. -/
def packedLevel : Level := fillLevel (newLevel (.packed .bgra8888) 4 4) (ramp 64)

/-- A 4 x 2 DXT5 level of one block. -/
def blockLevel : Level := fillLevel (newLevel (.block .dxt5) 4 2) dxt5Block

/-- A unit that holds that level. -/
def blockState : State :=
  { State.reset with phase := .done, fmt := some (.block .dxt5), mip := [blockLevel], mipCnt := 1 }

/-- A unit whose next transaction is `a`. -/
def scripted (a : HostAction) : State := { State.reset with script := [a] }

/-- The 128-bit value of a block's bytes in `BLK` (10_state.md R23). -/
def blkOf (k : List Byte) : BitVec 128 := leBits 128 k

/-- A unit ready for BLKPIX. -/
def blkState (k : List Byte) (x y : DWord) : State := { State.reset with blk := blkOf k, argX := x, argY := y }

/-! ### The checks refuse ill-formed terms (30_encoding.md R84, R86; 00_scope.md R10) -/

theorem test_wellFormed_op_zero : (⟨0, 0, 0⟩ : CommandFields).wellFormed = false := by decide
theorem test_wellFormed_op_high : (⟨0, 0, 8⟩ : CommandFields).wellFormed = false := by decide
theorem test_wellFormed_z_set : (⟨1, 0, 1⟩ : CommandFields).wellFormed = false := by decide
theorem test_wellFormed_format_not_zero : (⟨0, 1, 4⟩ : CommandFields).wellFormed = false := by decide
theorem test_wellFormed_format_not_packed : (⟨0, 5, 6⟩ : CommandFields).wellFormed = false := by decide
theorem test_wellFormed_format_not_block : (⟨0, 4, 7⟩ : CommandFields).wellFormed = false := by decide
theorem test_wellFormed_legal : (⟨0, 7, 7⟩ : CommandFields).wellFormed = true := by decide
theorem test_params_mask_zero : { Params.defaults with ddpfYuv := 0 }.wellFormed = false := by decide
theorem test_params_masks_share_a_bit : { Params.defaults with ddsdWidth := 0x6 }.wellFormed = false := by decide
theorem test_params_defaults : Params.defaults.wellFormed = true := by decide

/-! ### Decoding: every row of R84, its word written out as `z fmt op` -/

theorem test_decode_parse : decodeCommand 0b00000001 = .ok .parse := by decide
theorem test_decode_probe : decodeCommand 0b00000010 = .ok .probe := by decide
theorem test_decode_at : decodeCommand 0b00000011 = .ok .atPixel := by decide
theorem test_decode_set : decodeCommand 0b00000100 = .ok .setPixel := by decide
theorem test_decode_unpack_bgra8888 : decodeCommand 0b00000101 = .ok .unpackBgra8888 := by decide
theorem test_decode_unpack_bgr565 : decodeCommand 0b00010101 = .ok .unpackBgr565 := by decide
theorem test_decode_unpack_bgra5551 : decodeCommand 0b00100101 = .ok .unpackBgra5551 := by decide
theorem test_decode_unpack_bgra4444 : decodeCommand 0b00110101 = .ok .unpackBgra4444 := by decide
theorem test_decode_unpack_rgb565 : decodeCommand 0b01000101 = .ok .unpackRgb565 := by decide
theorem test_decode_pack_bgra8888 : decodeCommand 0b00000110 = .ok .packBgra8888 := by decide
theorem test_decode_pack_bgr565 : decodeCommand 0b00010110 = .ok .packBgr565 := by decide
theorem test_decode_pack_bgra5551 : decodeCommand 0b00100110 = .ok .packBgra5551 := by decide
theorem test_decode_pack_bgra4444 : decodeCommand 0b00110110 = .ok .packBgra4444 := by decide
theorem test_decode_pack_rgb565 : decodeCommand 0b01000110 = .ok .packRgb565 := by decide
theorem test_decode_blkpix_dxt1 : decodeCommand 0b01010111 = .ok .blkpixDxt1 := by decide
theorem test_decode_blkpix_dxt3 : decodeCommand 0b01100111 = .ok .blkpixDxt3 := by decide
theorem test_decode_blkpix_dxt5 : decodeCommand 0b01110111 = .ok .blkpixDxt5 := by decide

/-- One word of each kind of R86. -/
theorem test_decode_illegal :
    [0x00, 0x08, 0x81, 0x11, 0x55, 0x47].map decodeCommand =
      [.error .opZero, .error .opHigh, .error .zSet, .error .formatNotZero, .error .formatNotPacked,
        .error .formatNotBlock] := by decide

theorem test_encode_blkpix_dxt3 : encode .blkpixDxt3 = 0x67 := by decide
theorem test_table_word : decodeTableWord 8 0x46 = some .packRgb565 ∧ decodeTableWord 8 0xFF = none := by decide

/-! ### One step each: UNPACK (R104 to R108, worked examples) -/

theorem test_unpack_bgra8888 :
    after .unpackBgra8888 { State.reset with unit := 0x80FF4020 } State.res =
      some ⟨0xFFFF, 0x4040, 0x2020, 0x8080⟩ := by decide +kernel
theorem test_unpack_bgr565 :
    after .unpackBgr565 { State.reset with unit := 0x1234 } State.res =
      some ⟨0x1084, 0x4514, 0xA529, 0xFFFF⟩ := by decide +kernel
theorem test_unpack_bgra5551 :
    after .unpackBgra5551 { State.reset with unit := 0x1234 } State.res =
      some ⟨0x2108, 0x8C63, 0xA529, 0x0000⟩ := by decide +kernel
theorem test_unpack_bgra4444 :
    after .unpackBgra4444 { State.reset with unit := 0xF8A3 } State.res =
      some ⟨0x8888, 0xAAAA, 0x3333, 0xFFFF⟩ := by decide +kernel
theorem test_unpack_rgb565 :
    after .unpackRgb565 { State.reset with unit := 0xF800 } State.res =
      some ⟨0xFFFF, 0x0000, 0x0000, 0xFFFF⟩ := by decide +kernel
theorem test_unpack_rgb565_low :
    after .unpackRgb565 { State.reset with unit := 0xF800, params := { Params.defaults with rgb565Layout := .rLow } }
      State.res = some ⟨0x0000, 0x0000, 0xFFFF, 0xFFFF⟩ := by decide +kernel
/-- Bits 31:16 are ignored by a 16-bit format (R105). -/
theorem test_unpack_ignores_high_half :
    after .unpackBgr565 { State.reset with unit := 0xFFFF0000 } State.res = some ⟨0, 0, 0, 0xFFFF⟩ := by decide +kernel

/-! ### PACK (R112 to R116, worked examples) -/

theorem test_pack_bgra8888 :
    after .packBgra8888 { State.reset with arg := ⟨0x12FF, 0x3400, 0x56AB, 0x7880⟩ } State.unit =
      some 0x78123456 := by decide +kernel
theorem test_pack_bgr565 :
    after .packBgr565 { State.reset with arg := ⟨0x1084, 0x4104, 0xA529, 0x1234⟩ } State.unit = some 0x1214 := by
  decide +kernel
theorem test_pack_bgra5551 :
    after .packBgra5551 { State.reset with arg := ⟨0x2108, 0x8C63, 0x94A5, 0xFFFF⟩ } State.unit = some 0x9232 := by
  decide +kernel
theorem test_pack_bgra4444 :
    after .packBgra4444 { State.reset with arg := ⟨0x8FFF, 0xA000, 0x3FFF, 0xF000⟩ } State.unit = some 0xF8A3 := by
  decide +kernel
theorem test_pack_rgb565 :
    after .packRgb565 { State.reset with arg := ⟨0xFFFF, 0x0000, 0x0000, 0xFFFF⟩ } State.unit = some 0xF800 := by
  decide +kernel
theorem test_pack_clears_high_half :
    after .packBgr565 { State.reset with unit := 0xFFFFFFFF, arg := ⟨0x07FF, 0x03FF, 0x07FF, 0⟩ } State.unit =
      some 0x0000 := by decide +kernel

/-! ### BLKPIX (R140 to R142, worked examples; refusal R146) -/

theorem test_blkpix_dxt1 :
    after .blkpixDxt1 (blkState [0x00, 0xF8, 0x1F, 0x00, 0xE4, 0x1B, 0x00, 0xFF] 2 0) State.res =
      some ⟨0xAAAA, 0x0000, 0x5555, 0xFFFF⟩ := by decide +kernel
theorem test_blkpix_dxt3 :
    after .blkpixDxt3
      (blkState
        [0x10, 0x32, 0x54, 0x76, 0x98, 0xBA, 0xDC, 0xFE, 0x00, 0xF8, 0x1F, 0x00, 0xE4, 0x1B, 0x00, 0xFF] 2 0)
      State.res = some ⟨0xAAAA, 0x0000, 0x5555, 0x2222⟩ := by decide +kernel
theorem test_blkpix_dxt5 :
    after .blkpixDxt5 (blkState dxt5Block 2 0) State.res = some ⟨0xAAAA, 0x0000, 0x5555, 0xDB6C⟩ := by decide +kernel
theorem test_blkpix_refused :
    nextOf (exec .blkpixDxt1 (blkState dxt5Block 4 0)) = some { blkState dxt5Block 4 0 with cmdErr := true } := by
  decide +kernel
theorem test_blkpix_refused_negative :
    nextOf (exec .blkpixDxt5 (blkState dxt5Block 0 (-1))) =
      some { blkState dxt5Block 0 (-1) with cmdErr := true } := by decide +kernel

/-! ### AT and SET (R170, R175; 95_test_vectors.md programs P1 and P2) -/

theorem test_at_packed :
    after .atPixel { packedState with argX := 1, argY := 2 } State.res = some ⟨0x2626, 0x2525, 0x2424, 0x2727⟩ := by
  decide +kernel
theorem test_at_block :
    after .atPixel { blockState with argX := 2, argY := 0 } State.res = some ⟨0xAAAA, 0x0000, 0x5555, 0xDB6C⟩ := by
  decide +kernel
/-- 42_pixel_buffer.md R175: the bytes 56 34 12 78 at offsets 20 to 23. -/
theorem test_set_packed :
    after .setPixel { packedState with argX := 1, argY := 1, arg := ⟨0x12FF, 0x3400, 0x56AB, 0x7880⟩ }
        (fun t => (t.mip.map fun m => m.store.readBytes 19 6).head?) =
      some (some [0x13, 0x56, 0x34, 0x12, 0x78, 0x18]) := by decide +kernel
theorem test_set_outside :
    nextOf (exec .setPixel { packedState with argX := 4, argY := 0 }) = some { packedState with argX := 4, argY := 0 } := by
  decide +kernel

/-! ### PARSE and PROBE (program P1; the errors of 60_exceptions.md R231) -/

theorem test_parse :
    after .parse (offered bgraStream) (fun t => (t.phase, t.err, t.pos, t.fmt)) =
      some (.done, none, 208, some (.packed .bgra8888)) := by decide +kernel
theorem test_parse_levels :
    after .parse (offered bgraStream) (fun t => t.mip.map fun m => [m.w.toNat, m.h.toNat, m.stride, m.len]) =
      some [[4, 4, 16, 64], [2, 2, 8, 16]] := by decide +kernel
theorem test_parse_truncated :
    after .parse (offered (bgraStream.take 207)) (fun t => ((t.phase, t.err, t.pos), t.mip, t.levelIdx)) =
      some ((.failed, some .truncatedData, 207), [], 1) := by decide +kernel
theorem test_probe :
    after .probe (offered bgraStream)
        (fun t => ((statusWord t, t.pos, t.mipCnt), t.outW, t.outH, t.outDepth)) =
      some ((0x1006, 128, 2), 4, 4, 16) := by decide +kernel
theorem test_probe_bad_magic :
    after .probe (offered (0x00 :: bgraStream)) (fun t => (t.phase, t.err, t.pos)) =
      some (.failed, some .badMagic, 4) := by decide +kernel

/-! ### Geometry: the worked values of R165, stride and length -/

theorem test_geometry :
    [(PixelFormat.packed .bgra8888, 4, 4), (.packed .bgra8888, 2, 2), (.packed .bgr565, 5, 3), (.block .dxt1, 4, 4),
        (.block .dxt1, 5, 3), (.block .dxt1, 1, 1), (.block .dxt5, 9, 9), (.block .dxt3, 8, 2)].map
        (fun e => (strideOf e.1 e.2.1, rowsOf e.1 e.2.2, lengthOf e.1 e.2.1 e.2.2)) =
      [(16, 4, 64), (8, 2, 16), (10, 3, 30), (8, 1, 8), (16, 1, 16), (8, 1, 8), (48, 3, 144), (32, 1, 32)] := by
  decide

/-! ### The step and the port -/

theorem test_step_runs_first_instruction :
    nextOf (step (State.reset.withFetchWord 8 0x05)) = nextOf (exec .unpackBgra8888 State.reset) := by decide +kernel
/-- 30_encoding.md R91, the pseudo-command BLKPIX: three transactions, three steps. -/
theorem test_script_blkpix : scriptBlkpix 0x57 1 2 = [.wr 0x11 1, .wr 0x12 2, .wr 0x00 0x57] := by decide
theorem test_script_set :
    scriptSet 0 1 2 3 4 5 6 =
      [.wr 0x10 0, .wr 0x11 1, .wr 0x12 2, .wr 0x13 3, .wr 0x14 4, .wr 0x15 5, .wr 0x16 6, .wr 0x00 4] := by decide

/-! ### Witnesses: for every statement with hypotheses, a state and operands that meet them, clause by clause -/

/-- An outcome whose next state passes a check is a next state that passes it. -/
theorem exists_next {o : Host.Outcome State Fault Refusal} (check : State → Bool)
    (h : (nextOf o).any check = true) : ∃ t, o = .next t ∧ check t = true := by
  cases o with
  | next t => exact ⟨t, rfl, by simpa [nextOf] using h⟩
  | fault r => simp [nextOf] at h
  | refused r => simp [nextOf] at h

/-- An outcome whose refusal is `r`. -/
theorem eq_refused {o : Host.Outcome State Fault Refusal} {r : Refusal} (h : refusalOf o = some r) : o = .refused r := by
  cases o with
  | next t => simp [refusalOf] at h
  | fault f => simp [refusalOf] at h
  | refused q => simp [refusalOf] at h; rw [h]

/-- A whole file head whose size field is wrong (R195). -/
def wrongSizeStream : List Byte := head 123 0x21006 4 4 2 0x41 0 0xFF0000 0xFF00 0xFF 0xFF000000
/-- A DX10 head with no FOURCC flag and no required flag (R196, R233). -/
def dx10Stream : List Byte := head 124 0 4 4 1 0 0x30315844 0 0 0 0
/-- A head without the WIDTH flag (R198). -/
def noWidthStream : List Byte := head 124 0x1002 4 4 1 0x41 0 0xFF0000 0xFF00 0xFF 0xFF000000
/-- A head without the MIPMAPCOUNT flag, of a 1 x 1 BGR565 level with its two bytes (R199). -/
def oneLevelStream : List Byte := head 124 0x1006 1 1 5 0x40 0 0xF800 0x7E0 0x1F 0 ++ [0x34, 0x12]
/-- A head that no class matches (R203). -/
def noFormatStream : List Byte := head 124 0x1006 4 4 1 0x41 0 0xF800 0x7E0 0x1F 0
/-- A head with a tag of R202. -/
def taggedStream (tag : Word) : List Byte := head 124 0x1006 4 4 1 0x4 tag 0 0 0 0

theorem test_witness_IllegalWordsRefused :
    ∀ v ∈ ([0x00, 0x08, 0x0F, 0x81, 0x11, 0x55, 0x47, -1, 256] : List Int),
      (scripted (.wr 0 v)).script = .wr 0x00 v :: [] ∧ illegalWord (BitVec.ofInt 8 v) = true := by decide
theorem test_witness_StepRunsDecodedCommand :
    (scripted (.wr 0 0x105)).script = .wr 0x00 0x105 :: [] ∧
      decodeCommand (BitVec.ofInt 8 0x105) = .ok .unpackBgra8888 := by decide
theorem test_witness_HostActionsSettleInPort :
    (scripted (.rd 3)).script = .rd 3 :: [] ∧ (scripted (.stream [0x44])).script = .stream [0x44] :: [] ∧
      ((scripted (.wr 0x11 (-1))).script = .wr 0x11 (-1) :: [] ∧ regOfNumber 0x11 = some .argX ∧ Reg.argX ≠ .cmd) ∧
      (scripted .reset).script = .reset :: [] ∧ State.reset.script = [] := by decide
theorem test_witness_ResetValues :
    hostReset packedState = hostReset packedState ∧ State.reset = State.reset := ⟨rfl, rfl⟩
theorem test_witness_RegisterMapNumbers :
    (∀ n ∈ [0x08, 0x0F, 0x1F, 0x3F, 0x47], regOfNumber n = none) ∧ regOfNumber 0x3E = some (.hdrw 30) ∧
      regOfNumber 0x20 = some (.hdrw 0) ∧ regOfNumber 0x46 = some .lvLen ∧
      Reg.pos ∉ ([.cmd, .selLevel, .argX, .argY, .argR, .argG, .argB, .argA, .unit, .blk, .stAddr] : List Reg) := by
  decide
theorem test_witness_RegistersHoldWhatWasWritten :
    (Reg.argX ≠ Reg.argY ∧ Reg.argX ∉ ([.stData, .lvFmt, .lvMinX, .lvMinY, .lvW, .lvH, .lvStride, .lvLen] : List Reg)) ∧
      (scripted (.rd 3)).script = .rd 3 :: [] := by decide
theorem test_witness_RegistersHoldWhatWasWritten_read :
    ∃ t, step (scripted (.rd 3)) = .next t ∧ (t.observed == [0]) = true :=
  exists_next (fun t => t.observed == [0]) (by decide +kernel)
theorem test_witness_LevelWindows :
    packedState.mip[packedState.selLevel.toNat]? = some packedLevel ∧ packedLevel.Ok ∧
      (63 : DWord).toNat < packedLevel.len ∧ packedLevel.len ≤ (64 : DWord).toNat := by decide +kernel
theorem test_witness_LevelWindows_none : { packedState with selLevel := 2 }.nlev ≤ (2 : Word).toNat := by decide +kernel
theorem test_witness_StreamReadConsumes :
    { offered (ramp 4) with pos := 4 }.pos.toNat ≤ (ramp 4).length ∧ (ramp 4).length < 2 ^ 64 := by decide
theorem test_witness_PackInvertsUnpack : PackedFormat.bgr565 = .bgra8888 ∨ (0xFFFF : Word).toNat < 2 ^ 16 := by decide
theorem test_witness_Blkpix :
    (inBlock (blkState dxt5Block 0 3).argX.toInt ∧ inBlock (blkState dxt5Block 0 3).argY.toInt) ∧
      ¬ (inBlock (blkState dxt5Block 4 0).argX.toInt ∧ inBlock (blkState dxt5Block 4 0).argY.toInt) ∧
      ¬ (inBlock (blkState dxt5Block 3 (-1)).argX.toInt ∧ inBlock (blkState dxt5Block 3 (-1)).argY.toInt) := by
  decide +kernel
theorem test_witness_ColourBlockLaws :
    (c0raw [0x34, 0x12, 0x34, 0x12, 0xE4, 0, 0, 0] = c1raw [0x34, 0x12, 0x34, 0x12, 0xE4, 0, 0, 0] ∧
      colourIndex [0x34, 0x12, 0x34, 0x12, 0xE4, 0, 0, 0] 2 0 = 2 ∧
      colourIndex [0x34, 0x12, 0x34, 0x12, 0xE4, 0, 0, 0] 3 0 = 3) ∧
    (c0raw [1, 0, 2, 0] = c1raw [2, 0, 1, 0] ∧ c1raw [1, 0, 2, 0] = c0raw [2, 0, 1, 0] ∧
      (c1raw [2, 0, 1, 0]).toNat < (c0raw [2, 0, 1, 0]).toNat) := by decide
theorem test_witness_Dxt5AlphaLaws :
    (0 : Channel).toNat < (0xFFFF : Channel).toNat ∧ (0x1234 : Channel).toNat ≤ (0x1234 : Channel).toNat := by decide
theorem test_witness_OutsideRectangle :
    packedState.mip[packedState.selLevel.toNat]? = some packedLevel ∧ packedLevel.fmt = .packed .bgra8888 ∧
      ¬ inRectangle packedLevel 4 0 ∧ ¬ inRectangle packedLevel 0 4 ∧ ¬ inRectangle packedLevel (-1) (-1) := by
  decide +kernel
/-- For AtPackedResult, SetPackedResult, SetThenAt and OffsetsStayInStore, at two corners. -/
theorem test_witness_packed_inside :
    packedState.mip[packedState.selLevel.toNat]? = some packedLevel ∧ packedLevel.Ok ∧
      packedLevel.fmt = .packed .bgra8888 ∧ inRectangle packedLevel 0 0 ∧ inRectangle packedLevel 3 3 := by
  decide +kernel
/-- For AtBlockAgreesWithBlkpix, SetOnBlockRefused and OffsetsStayInStore. -/
theorem test_witness_block_inside :
    blockState.mip[blockState.selLevel.toNat]? = some blockLevel ∧ blockLevel.Ok ∧ blockLevel.fmt = .block .dxt5 ∧
      inRectangle blockLevel 3 1 ∧
      ∀ j, j < blockUnitSize .dxt5 → Memory.read blockLevel.store (0 + j) = (blkOf dxt5Block).extractLsb' (8 * j) 8 := by
  decide +kernel
/-- AT where the selected level gives a sample. -/
theorem at_next {s : State} {v : Sample}
    (h : s.selected.bind (fun m => sampleAt s.params m s.x s.y) = some v) :
    exec .atPixel s = .next { s with res := v } := by
  obtain ⟨m, hm, hv⟩ := Option.bind_eq_some_iff.mp h
  simp [exec, execAt, hm, hv, State.setRes]
/-- The unit with levels of program P1 and pixel (1, 0) of level `l` selected. -/
def packedAt (l : Word) : State := { packedState with selLevel := l, argX := 1, argY := 0 }
/-- SetThenAt's last clause: another pixel of the level, and the other level. -/
theorem test_witness_SetThenAt :
    ((0 : Word).toNat < packedState.nlev ∧ (1 : DWord) ≠ packedState.argX ∧
      exec .atPixel (packedAt 0) = .next { packedAt 0 with res := ⟨0x0606, 0x0505, 0x0404, 0x0707⟩ }) ∧
    (1 : Word).toNat < packedState.nlev ∧ (1 : Word) ≠ packedState.selLevel ∧
      exec .atPixel (packedAt 1) = .next { packedAt 1 with res := ⟨0xC6C6, 0xC5C5, 0xC4C4, 0xC7C7⟩ } :=
  ⟨⟨by decide +kernel, by decide +kernel, at_next (by decide +kernel)⟩, by decide +kernel, by decide +kernel,
    at_next (by decide +kernel)⟩
theorem test_witness_MissingLevelRefused :
    State.reset.nlev ≤ State.reset.selLevel.toNat ∧ { packedState with selLevel := 2 }.nlev ≤ (2 : Word).toNat := by
  decide +kernel
theorem test_witness_ParseIsCallFunction :
    (offered bgraStream).input.length < 2 ^ 64 ∧ callFits (offered bgraStream).params (offered bgraStream).input :=
  ⟨by decide +kernel, fun _ h => (by cases h), fun _ _ _ h => (by cases h)⟩
/-- ParseIsCallFunction's last clause: the first byte of level 0 and the last of level 1 (program P1). -/
theorem test_witness_ParseIsCallFunction_stores :
    packedState.mip.map (fun m => (m.len, Memory.read m.store 0, Memory.read m.store (m.len - 1))) =
      [(64, 0x00, 0x3F), (16, 0xC0, 0xCF)] ∧
    bgraStream[128]? = some 0x00 ∧ bgraStream[128 + 64 + 15]? = some 0xCF := by decide +kernel
/-- The same with both capacities bounded, at their bounds: two levels, 80 bytes. -/
theorem test_witness_ParseIsCallFunction_bounded :
    callFits { Params.defaults with maxMipLevels := some 2, storeBytes := some 80 } bgraStream :=
  ⟨fun b h => (by cases h; decide +kernel), fun f b hf hb => (by
    cases hb
    have h : streamFormat { Params.defaults with maxMipLevels := some 2, storeBytes := some 80 } bgraStream =
        some (.packed .bgra8888) := by decide +kernel
    rw [h] at hf; cases hf; decide +kernel)⟩
theorem test_witness_ProbeIsCallFunction : (offered []).input.length < 2 ^ 64 := by decide
theorem test_witness_WrongMagicFails :
    (∀ d ∈ ([[], [0x44, 0x44, 0x53], [0x44, 0x44, 0x58, 0x20]] : List (List Byte)),
      (offered d).input.length < 2 ^ 64 ∧ (offered d).input.take 4 ≠ [0x44, 0x44, 0x53, 0x20]) ∧
    Instr.probe ∈ ([.parse, .probe] : List Instr) := by decide
theorem test_witness_HeaderTestsInOrder :
    (∀ d ∈ [ddsMagic, wrongSizeStream, dx10Stream, noWidthStream],
      d.length < 2 ^ 64 ∧ d.take 4 = [0x44, 0x44, 0x53, 0x20]) ∧
    (ddsMagic.length < 128 ∨ streamWord ddsMagic 0 ≠ 124) ∧
    (wrongSizeStream.length < 128 ∨ streamWord wrongSizeStream 0 ≠ 124) ∧
    (128 ≤ dx10Stream.length ∧ streamWord dx10Stream 0 = 124 ∧ streamWord dx10Stream 20 = 0x30315844) ∧
    (128 ≤ noWidthStream.length ∧ streamWord noWidthStream 0 = 124 ∧ streamWord noWidthStream 20 ≠ 0x30315844 ∧
      ¬ streamFlagsPresent Params.defaults noWidthStream) := by decide +kernel
theorem test_witness_HeaderRegistersLoaded :
    (∃ t, exec .parse (offered (wrongSizeStream.take 6)) = .next t ∧ (t.hdrw[0] == 123) = true) ∧
      (offered (wrongSizeStream.take 6)).input.take 4 = [0x44, 0x44, 0x53, 0x20] ∧
      (∃ t, exec .probe (offered []) = .next t ∧ (t.hdrw[0] == 0) = true) ∧
      (offered []).input.take 4 ≠ [0x44, 0x44, 0x53, 0x20] :=
  ⟨exists_next (fun t => t.hdrw[0] == 123) (by decide +kernel), by decide +kernel,
    exists_next (fun t => t.hdrw[0] == 0) (by decide +kernel), by decide⟩
theorem test_witness_ProbeOutputsWritten :
    ∀ d ∈ [bgraStream, oneLevelStream],
      (nextOf (exec .probe (offered d))).isSome = true ∧ d.take 4 = [0x44, 0x44, 0x53, 0x20] ∧ 128 ≤ d.length ∧
      streamWord d 0 = 124 ∧ streamWord d 20 ≠ 0x30315844 ∧ streamFlagsPresent Params.defaults d := by decide +kernel
theorem test_witness_ProbeOutputsWritten_count :
    streamWord bgraStream 1 &&& Params.defaults.ddsdMipMapCount ≠ 0 ∧
      streamWord oneLevelStream 1 &&& Params.defaults.ddsdMipMapCount = 0 := by decide +kernel
/-- FailedCallLeaves' last clauses: the level that comes up short is level 0, then level 1; no level after BadMagic. -/
theorem test_witness_FailedCallLeaves_level :
    [bgraHead, bgraStream.take 207, []].map (fun d => after .parse (offered d) State.levelIdx) =
      [some 0, some 1, some 0] := by decide +kernel
/-- One stream for each of the six errors. -/
theorem test_witness_FailedCallLeaves :
    [[], ddsMagic, dx10Stream, noWidthStream, noFormatStream, bgraHead].map
        (fun d => after .parse (offered d) fun t => (t.phase, t.err)) =
      [some (.failed, some .badMagic), some (.failed, some .badHeader), some (.failed, some .unsupportedExtension),
        some (.failed, some .missingFields), some (.failed, some .unsupportedFormat),
        some (.failed, some .truncatedData)] := by decide +kernel
theorem test_witness_TrailingBytesUnread :
    (after .parse (offered oneLevelStream) State.phase = some .done ∧
      after .probe (offered oneLevelStream) State.phase = some .done) ∧
    ((offered oneLevelStream).input ++ [0xAA]).length < 2 ^ 64 := by decide +kernel
/-- The phases of a call and what each does next: a transition for every row of R191. -/
def phaseAfter (n : Nat) (probe : Bool) (d : List Byte) : Option (Phase × Option DecodeError) :=
  (nextOf (runPhases n (beginCall probe (offered d)))).map fun t => (t.phase, t.err)
theorem test_witness_PhaseTransitions_pass :
    (List.range 8).map (fun n => phaseAfter n false bgraStream) =
      [some (.readMagic, none), some (.readHeader, none), some (.validateFlags, none), some (.classify, none),
        some (.buildMip, none), some (.buildMip, none), some (.buildMip, none), some (.done, none)] ∧
    phaseAfter 3 true bgraStream = some (.done, none) ∧
    after .parse State.reset State.phase ≠ none := by decide +kernel
theorem test_witness_PhaseTransitions_other :
    isDecodeCall .blkpixDxt1 = false ∧ after .blkpixDxt1 { packedState with argX := 4 } State.phase = some .done := by
  decide +kernel
theorem test_witness_PhaseTransitions_fail :
    [phaseAfter 1 false [], phaseAfter 2 false ddsMagic, phaseAfter 2 false wrongSizeStream,
        phaseAfter 2 false dx10Stream, phaseAfter 3 false noWidthStream, phaseAfter 4 false noFormatStream,
        phaseAfter 5 false bgraHead] =
      [some (.failed, some .badMagic), some (.failed, some .badHeader), some (.failed, some .badHeader),
        some (.failed, some .unsupportedExtension), some (.failed, some .missingFields),
        some (.failed, some .unsupportedFormat), some (.failed, some .truncatedData)] := by decide +kernel
theorem test_witness_CallsEndWithinBound :
    isDecodeCall .parse = true ∧ ∃ t, exec .parse (offered bgraStream) = .next t ∧ (t.mipCnt == 2) = true :=
  ⟨rfl, exists_next (fun t => t.mipCnt == 2) (by decide +kernel)⟩
theorem test_witness_CallsForgetTheLastCall :
    isDecodeCall .probe = true ∧
      { packedState with phase := .idle, mip := [], mipCnt := 0 } =
        { packedState with
          phase := .idle, err := packedState.err, fmt := packedState.fmt, probe := packedState.probe,
          pos := packedState.pos, levelIdx := packedState.levelIdx, mip := [], mipCnt := 0, outW := packedState.outW,
          outH := packedState.outH, outDepth := packedState.outDepth, hdrw := packedState.hdrw } := ⟨rfl, rfl⟩
theorem test_witness_MipDimensions :
    Params.defaults.mipFloor = .clamp1 ∧ { Params.defaults with mipFloor := .naive }.mipFloor = .naive := by decide
/-- Every format the classifier can select, and a descriptor it rejects (R201 to R203). -/
theorem test_witness_ClassifierSelects :
    [bgraStream, head 124 0 0 0 0 0x41 0 0x0F00 0x00F0 0x000F 0xF000, head 124 0 0 0 0 0x41 0 0x7C00 0x03E0 0x001F 0x8000,
        oneLevelStream, taggedStream 0x31545844, taggedStream 0x33545844, taggedStream 0x35545844,
        noFormatStream].map (streamFormat Params.defaults) =
      [some (.packed .bgra8888), some (.packed .bgra4444), some (.packed .bgra5551), some (.packed .bgr565),
        some (.block .dxt1), some (.block .dxt3), some (.block .dxt5), none] ∧
    classifyHeader State.reset = none := by decide +kernel
/-- The invariants hold in a state with two levels, which then takes a step that changes a store. -/
theorem test_witness_StepKeepsInvariant :
    packedState.Inv ∧ packedState.ChainOk ∧
      ∃ t, step (packedState.withFetchWord 8 0x04) = .next t ∧ (t.mip != packedState.mip) = true :=
  ⟨by decide +kernel, by decide +kernel, exists_next (fun t => t.mip != packedState.mip) (by decide +kernel)⟩
theorem test_witness_StepKeepsInvariant_script :
    (packedState.withFetchWord 8 0x04).Inv ∧ (packedState.withFetchWord 8 0x04).ChainOk := by decide +kernel
theorem test_witness_CommandsWriteOnlyTheirRow :
    ∃ t, exec .setPixel packedState = .next t ∧ (t.mip != packedState.mip) = true :=
  exists_next (fun t => t.mip != packedState.mip) (by decide +kernel)
/-- An illegal word, a refused command and an accepted one, from a state with CMDERR clear. -/
theorem test_witness_CmderrHasItsCauses :
    [0x55, 0x03, 0x05].map
        (fun w => (nextOf (step (State.reset.withFetchWord 8 w))).map State.cmdErr) =
      [some true, some true, some false] ∧ (State.reset.withFetchWord 8 0x55).cmdErr = false := by decide +kernel
theorem test_witness_CmderrIsSticky :
    { scripted .reset with cmdErr := true }.cmdErr = true ∧
      ∃ t, step { scripted .reset with cmdErr := true } = .next t ∧ (t.cmdErr == false) = true :=
  ⟨rfl, exists_next (fun t => t.cmdErr == false) (by decide +kernel)⟩
/-- The default parameters with two capacities. -/
def capacities (levels bytes : Option Nat) : Params :=
  { Params.defaults with maxMipLevels := levels, storeBytes := bytes }
/-- The unit to which program P1's stream, two levels of 64 and 16 bytes, is offered under two capacities. -/
def bounded (levels bytes : Option Nat) : State := { offered bgraStream with params := capacities levels bytes }
/-- OnlyNamedStops and CapacityStops: each capacity one short, `STORE_BYTES` at level 0 and at level 1, the mip count
unbounded and at its bound. -/
theorem test_witness_capacity :
    exec .parse (bounded (some 1) none) = .refused .levelTableBound ∧
      exec .parse (bounded none (some 63)) = .refused .storeBound ∧
      exec .parse (bounded (some 2) (some 79)) = .refused .storeBound :=
  ⟨eq_refused (by decide +kernel), eq_refused (by decide +kernel), eq_refused (by decide +kernel)⟩
theorem test_witness_CapacityStops :
    (bgraStream.length = 208 ∧ bgraStream.take 4 = [0x44, 0x44, 0x53, 0x20] ∧ streamWord bgraStream 0 = 124 ∧
      streamWord bgraStream 20 ≠ 0x30315844) ∧
    ∀ p ∈ [capacities (some 1) none, capacities none (some 63), capacities (some 2) (some 79)],
      streamFlagsPresent p bgraStream ∧ streamFormat p bgraStream = some (.packed .bgra8888) ∧
      (streamMipCount p bgraStream).toNat = 2 ∧
      (List.range 3).map (levelBytes p bgraStream (.packed .bgra8888)) = [0, 64, 80] := by decide +kernel
/-- CapacityStops' first clause: a stream of 2^64 bytes. -/
theorem test_witness_stream_too_long : ∃ d : List Byte, 2 ^ 64 ≤ (offered d).input.length := by
  generalize 2 ^ 64 = n
  exact ⟨List.replicate n 0, by simp [offered]⟩
theorem test_witness_StoresAreCanonical :
    Memory.wf (Memory.ofBytes 0 [1, 0, 2]) = true ∧ Memory.wf (Memory.write (Memory.write [] 2 2) 0 1) = true ∧
      ∀ a, Memory.read (Memory.ofBytes 0 [1, 0, 2]) a = Memory.read (Memory.write (Memory.write [] 2 2) 0 1) a :=
  ⟨by decide, by decide, fun _ => rfl⟩

end Sys2Proof.Tests
end

section
/-! SUPPORT. What a finished PARSE has built: level `i` of the chain is the level of 43_container_parser.md R206 and
R207, filled with as many bytes as its length. -/

namespace Sys2Proof.Machine

/-- A new level filled with its bytes is a level as the unit builds it (R162 to R165, R207). -/
theorem fillLevel_newLevel_ok (f : PixelFormat) (w h : Word) (d : List Byte) (hd : d.length = (newLevel f w h).len) :
    (fillLevel (newLevel f w h) d).Ok :=
  ⟨rfl, rfl, rfl, rfl, fillLevel_store_ok (newLevel f w h) d hd.le⟩

/-- SET leaves a level as the unit builds it. -/
theorem Level.Ok.levelSet {p : Params} {m m' : Level} {f : PackedFormat} {x y : Int} {v : Sample} (hm : m.Ok)
    (h : levelSet p m f x y v = some m') : m'.Ok := by
  obtain ⟨hx, hy, hstride, hlen, hwf, hbelow⟩ := hm
  obtain ⟨hwf', hbelow'⟩ := memWrite_store_ok h hwf hbelow
  rw [(levelSet_some h).1] at hbelow' ⊢
  exact ⟨hx, hy, hstride, hlen, hwf', hbelow'⟩

/-- Level `i` of a list is level `i` of the stream `d` in format `f`, filled with as many bytes as its length. -/
def LevelsBuilt (p : Params) (f : PixelFormat) (d : List Byte) (levels : List Level) : Prop :=
  ∀ i m, levels[i]? = some m → ∃ bytes : List Byte,
    bytes.length = (newLevel f (mipDim p (streamWord d 3) i) (mipDim p (streamWord d 2) i)).len ∧
    m = fillLevel (newLevel f (mipDim p (streamWord d 3) i) (mipDim p (streamWord d 2) i)) bytes

/-- One more level, with all its bytes. -/
theorem LevelsBuilt.append {p : Params} {f : PixelFormat} {d : List Byte} {levels : List Level}
    (hb : LevelsBuilt p f d levels) {bytes : List Byte}
    (hlen : bytes.length =
      (newLevel f (mipDim p (streamWord d 3) levels.length) (mipDim p (streamWord d 2) levels.length)).len) :
    LevelsBuilt p f d (levels ++
      [fillLevel (newLevel f (mipDim p (streamWord d 3) levels.length) (mipDim p (streamWord d 2) levels.length))
        bytes]) := by
  intro i m hi
  rcases Nat.lt_trichotomy i levels.length with hlt | rfl | hgt
  · exact hb i m (by rwa [List.getElem?_append_left hlt] at hi)
  · exact ⟨bytes, hlen, by simpa using hi.symm⟩
  · rw [List.getElem?_eq_none (by simp; omega)] at hi
    cases hi

/-- The loop of R212 builds every level whole. -/
theorem callLevels_built (p : Params) (f : PixelFormat) (d : List Byte) (n : Nat) :
    ∀ i pos acc g levels q, acc.length = i → LevelsBuilt p f d acc →
      callLevels p f d n i pos acc = .parsed g levels q → LevelsBuilt p f d levels := by
  induction n with
  | zero => intro i pos acc g levels q _ hb h; cases h; exact hb
  | succ n ih =>
    intro i pos acc g levels q hi hb h
    subst hi
    simp only [callLevels] at h
    split at h
    · cases h
    · refine ih _ _ _ _ _ _ (by simp) (hb.append ?_) h
      simp
      omega

/-- Every level of a built chain is of the chain's format, and as the unit builds it. -/
theorem LevelsBuilt.mem_ok {p : Params} {f : PixelFormat} {d : List Byte} {levels : List Level}
    (hb : LevelsBuilt p f d levels) {m : Level} (hm : m ∈ levels) : m.fmt = f ∧ m.Ok := by
  obtain ⟨i, hi⟩ := List.getElem?_of_mem hm
  obtain ⟨bytes, hlen, rfl⟩ := hb i m hi
  exact ⟨rfl, fillLevel_newLevel_ok _ _ _ _ hlen⟩

/-- Level `i` of a built chain has the dimensions of R206. -/
theorem LevelsBuilt.dimensions {p : Params} {f : PixelFormat} {d : List Byte} {levels : List Level}
    (hb : LevelsBuilt p f d levels) (i : Nat) (m : Level) (hi : levels[i]? = some m) :
    m.w = mipDim p (streamWord d 3) i ∧ m.h = mipDim p (streamWord d 2) i := by
  obtain ⟨bytes, -, rfl⟩ := hb i m hi
  exact ⟨rfl, rfl⟩

/-- The classifier selects no RGB565: neither branch names it (R202, R203). -/
theorem streamFormat_ne_rgb565 (p : Params) (d : List Byte) : streamFormat p d ≠ some (.packed .rgb565) := by
  have hFourCC (tag : Word) : classifyFourCC tag ≠ some (.packed .rgb565) := by
    unfold classifyFourCC
    split_ifs <;> simp
  have hRgb (alpha : Bool) (r g b a : Word) : classifyRgb alpha r g b a ≠ some (.packed .rgb565) := by
    unfold classifyRgb
    split_ifs <;> simp
  unfold streamFormat classify
  split_ifs
  · exact hFourCC _
  · exact hRgb _ _ _ _ _
  · simp

/-! ### The three ways a decode call ends -/

/-- What every failed call leaves (60_exceptions.md R236). -/
structure FailedEnd (t : State) : Prop where
  phase : t.phase = .failed
  err : t.err ≠ none
  mip : t.mip = []
  fmt : t.fmt ≠ some (.packed .rgb565)

/-- What a PARSE that ends in DONE leaves (43_container_parser.md R209): the whole chain of the stream of `s` in format
`f`, never RGB565. -/
structure ParsedEnd (f : PixelFormat) (s t : State) : Prop where
  phase : t.phase = .done
  err : t.err = none
  probe : t.probe = false
  fmt : t.fmt = some f
  fmt_ne : f ≠ .packed .rgb565
  length : t.mip.length = t.mipCnt.toNat
  width : t.hWidth = streamWord s.input 3
  height : t.hHeight = streamWord s.input 2
  built : LevelsBuilt t.params f s.input t.mip

/-- A failed call is left in FAILED with its error and no level; what failed before CLASSIFY has no format. -/
theorem failedEnd_of_fmt_none {t : State} {e : DecodeError} (hp : t.phase = .failed) (he : t.err = some e)
    (hm : t.mip = []) (hf : t.fmt = none) : FailedEnd t :=
  ⟨hp, by simp [he], hm, by simp [hf]⟩

/-- The loop of R212, run from its start, fails or leaves the whole chain. -/
theorem LevelsEnd.failed_or_parsed {f : PixelFormat} {s t : State} (hf : streamFormat s.params s.input = some f)
    (h : LevelsEnd f s (callLevels s.params f s.input (declaredLevels s) 0 128 []) t) :
    FailedEnd t ∨ ParsedEnd f s t := by
  have hne : some f ≠ some (.packed .rgb565) := hf ▸ streamFormat_ne_rgb565 s.params s.input
  cases hr : callLevels s.params f s.input (declaredLevels s) 0 128 [] with
  | failed e pos =>
    rw [hr] at h
    obtain ⟨-, -, j, -, -, -, rfl⟩ := h
    exact .inl ⟨rfl, by simp, rfl, hne⟩
  | probed w h' depth pos =>
    rw [hr] at h
    exact h.elim
  | parsed g levels pos =>
    rw [hr] at h
    obtain ⟨rfl, hlen, -, -, rfl⟩ := h
    have hbuilt : LevelsBuilt s.params g s.input levels :=
      callLevels_built _ _ _ _ 0 128 [] _ _ _ rfl (by simp [LevelsBuilt]) hr
    exact .inr ⟨rfl, rfl, rfl, rfl, fun h => hne (congrArg some h), hlen,
      getElem_afterHeader false s 3 (by omega), getElem_afterHeader false s 2 (by omega), hbuilt⟩

/-- A decode call fails, or it is a PROBE that read the header, or a PARSE that built the whole chain. -/
theorem CallEnd.failed_or_probed_or_parsed {b : Bool} {s t : State} (h : CallEnd b s t) :
    FailedEnd t ∨ t = afterFlags true s ∨ ∃ f, ParsedEnd f s t := by
  cases h with
  | magic => exact .inl (failedEnd_of_fmt_none rfl rfl rfl rfl)
  | header => exact .inl (failedEnd_of_fmt_none rfl rfl rfl rfl)
  | ext => exact .inl (failedEnd_of_fmt_none rfl rfl rfl rfl)
  | flags => exact .inl (failedEnd_of_fmt_none rfl rfl rfl rfl)
  | format => exact .inl (failedEnd_of_fmt_none rfl rfl rfl rfl)
  | probed => exact .inr (.inl rfl)
  | levels f _ _ _ _ _ _ _ hf hend =>
    exact (LevelsEnd.failed_or_parsed hf hend).imp_right fun hparsed => .inr ⟨f, hparsed⟩

end Sys2Proof.Machine
end

section
/-! SUPPORT. What one step can do to the part of the state that a decode call builds, said once; the two invariants of
the state (10_state.md R41; 43_container_parser.md R206, R209) are read off it. -/

namespace Sys2Proof.Machine

/-- `t` holds what the last decode call left in `s`: the fields that the two invariants speak of. -/
structure SameCall (s t : State) : Prop where
  phase : t.phase = s.phase
  err : t.err = s.err
  fmt : t.fmt = s.fmt
  probe : t.probe = s.probe
  mip : t.mip = s.mip
  mipCnt : t.mipCnt = s.mipCnt
  hdrw : t.hdrw = s.hdrw
  params : t.params = s.params

theorem SameCall.refl (s : State) : SameCall s s := ⟨rfl, rfl, rfl, rfl, rfl, rfl, rfl, rfl⟩

/-- A register write leaves what the last call built (10_state.md R37). -/
theorem sameCall_writeReg (r : Reg) (v : Int) (s : State) : SameCall s (writeReg r v s) := by
  rw [writeReg_eq]
  exact ⟨rfl, rfl, rfl, rfl, rfl, rfl, rfl, rfl⟩

theorem sameCall_setRes (x : Sample) (s : State) : SameCall s (s.setRes x) := ⟨rfl, rfl, rfl, rfl, rfl, rfl, rfl, rfl⟩

theorem sameCall_setUnit (u : Word) (s : State) : SameCall s (s.setUnit u) := ⟨rfl, rfl, rfl, rfl, rfl, rfl, rfl, rfl⟩

theorem sameCall_refuseCommand (s : State) : SameCall s (refuseCommand s) := ⟨rfl, rfl, rfl, rfl, rfl, rfl, rfl, rfl⟩

/-- AT keeps what the last call built, refused or not. -/
theorem sameCall_execAt {s t : State} (h : execAt s = .next t) : SameCall s t := by
  rcases execAt_cases s with ⟨-, he⟩ | ⟨m, -, -, he⟩ | ⟨m, k, -, -, -, he⟩ | ⟨m, -, -, -, he⟩ <;>
    rw [he] at h <;> cases h
  · exact sameCall_refuseCommand s
  · exact sameCall_setRes _ s
  · exact sameCall_setRes _ s

/-- UNPACK keeps what the last call built. -/
theorem sameCall_unpackCommandOf {f : PackedFormat} {s t : State} (h : unpackCommandOf f s = .next t) :
    SameCall s t := by
  cases h
  exact sameCall_setRes _ s

/-- PACK keeps what the last call built. -/
theorem sameCall_packCommandOf {f : PackedFormat} {s t : State} (h : packCommandOf f s = .next t) : SameCall s t := by
  cases h
  exact sameCall_setUnit _ s

/-- BLKPIX keeps what the last call built, refused or not. -/
theorem sameCall_blkpixCommandOf {f : BlockFormat} {s t : State} (h : blkpixCommandOf f s = .next t) :
    SameCall s t := by
  unfold blkpixCommandOf at h
  split at h <;> cases h
  · exact sameCall_setRes _ s
  · exact sameCall_refuseCommand s

/-- All a command or the host can do to what the last decode call built: keep it, clear it, change the store of the
selected level, or build it anew. -/
inductive CallEffect (s : State) : State → Prop
  | keeps {t} : SameCall s t → CallEffect s t
  | reset : CallEffect s (hostReset s)
  | writes {m m' f x y v} : s.selected = some m → levelSet s.params m f x y v = some m' →
      CallEffect s (s.setSelected m')
  | calls {b t} : CallEnd b s t → CallEffect s t

/-- SET keeps what the last call built, or changes the store of the selected level (42_pixel_buffer.md R175). -/
theorem execSet_callEffect {s t : State} (h : execSet s = .next t) : CallEffect s t := by
  unfold execSet at h
  split at h
  case h_1 => cases h; exact .keeps (sameCall_refuseCommand s)
  case h_2 m hm =>
    split at h
    case h_1 => cases h; exact .keeps (sameCall_refuseCommand s)
    case h_2 f _ =>
      rcases setPacked_cases m f s with ⟨-, he⟩ | ⟨m', -, hset, he⟩ | ⟨-, -, he⟩ <;> rw [he] at h <;> cases h
      · exact .keeps (.refl s)
      · exact .writes hm hset

/-- What a command can do to what the last call built (30_encoding.md R85). -/
theorem exec_callEffect {i : Instr} {s t : State} (h : exec i s = .next t) : CallEffect s t := by
  cases i with
  | parse | probe => exact .calls (exec_decodeCall_next _ s t rfl h).2
  | atPixel => exact .keeps (sameCall_execAt h)
  | setPixel => exact execSet_callEffect h
  | unpackBgra8888 | unpackBgr565 | unpackBgra5551 | unpackBgra4444 | unpackRgb565 =>
    exact .keeps (sameCall_unpackCommandOf h)
  | packBgra8888 | packBgr565 | packBgra5551 | packBgra4444 | packRgb565 => exact .keeps (sameCall_packCommandOf h)
  | blkpixDxt1 | blkpixDxt3 | blkpixDxt5 => exact .keeps (sameCall_blkpixCommandOf h)

/-- What a step can do to what the last call built, its transaction taken off the script. -/
theorem step_callEffect {s t : State} (h : step s = .next t) : ∃ rest, CallEffect { s with script := rest } t := by
  rcases step_cases s t h with ⟨-, rfl⟩ | ⟨a, rest, -, ha⟩
  · exact ⟨t.script, .keeps (.refl t)⟩
  · refine ⟨rest, ?_⟩
    rcases ha with ⟨n, -, rfl⟩ | ⟨d, -, rfl⟩ | ⟨-, rfl⟩ | ⟨n, v, -, -, rfl⟩ | ⟨n, v, r, -, -, -, rfl⟩ |
      ⟨v, i, -, -, hexec⟩ | ⟨v, k, -, -, rfl⟩
    · exact .keeps ⟨rfl, rfl, rfl, rfl, rfl, rfl, rfl, rfl⟩
    · exact .keeps ⟨rfl, rfl, rfl, rfl, rfl, rfl, rfl, rfl⟩
    · exact .reset
    · exact .keeps (.refl _)
    · exact .keeps (sameCall_writeReg r v _)
    · exact exec_callEffect hexec
    · exact .keeps (sameCall_refuseCommand _)

/-! ### The invariant of R41 -/

/-- The invariant speaks only of what the last call built. -/
theorem SameCall.inv {s t : State} (h : SameCall s t) (hs : s.Inv) : t.Inv := by
  unfold State.Inv
  rw [h.phase, h.err, h.fmt, h.probe, h.mip, h.mipCnt]
  exact hs

/-- A state without levels, at rest and with its error in FAILED alone, meets the invariant. -/
theorem inv_of_no_level {s : State} (hphase : s.phase = .idle ∨ s.phase = .done ∨ s.phase = .failed)
    (herr : s.err ≠ none ↔ s.phase = .failed) (hmip : s.mip = []) : s.Inv :=
  ⟨hphase, herr, fun h => absurd hmip h, by simp [hmip], by simp [hmip]⟩

/-- The reset input establishes the invariant. -/
theorem inv_hostReset (s : State) : (hostReset s).Inv :=
  inv_of_no_level (.inl rfl) (by simp [hostReset, State.reset]) rfl

/-- Every decode call establishes the invariant, whatever the state was before. -/
theorem CallEnd.inv {b : Bool} {s t : State} (h : CallEnd b s t) : t.Inv := by
  rcases h.failed_or_probed_or_parsed with hfail | rfl | ⟨f, hp⟩
  · exact inv_of_no_level (.inr (.inr hfail.phase)) (iff_of_true hfail.err hfail.phase) hfail.mip
  · exact inv_of_no_level (.inr (.inl rfl)) (by simp [afterFlags, afterHeader, beginCall]) rfl
  · refine ⟨.inr (.inl hp.phase), by simp [hp.err, hp.phase], fun _ => ⟨hp.phase, hp.probe⟩, fun m hm => ?_,
      hp.length.le⟩
    obtain ⟨hfmt, hok⟩ := hp.built.mem_ok hm
    exact ⟨hfmt ▸ hp.fmt, hok⟩

/-- SET keeps the invariant: the level stays of its format and as the unit builds it. -/
theorem inv_setSelected {s : State} {m m' : Level} {f : PackedFormat} {x y : Int} {v : Sample} (hs : s.Inv)
    (hm : s.selected = some m) (hset : levelSet s.params m f x y v = some m') : (s.setSelected m').Inv := by
  obtain ⟨hphase, herr, hdone, hlevels, hcount⟩ := hs
  have hmem : m ∈ s.mip := List.mem_of_getElem? hm
  obtain ⟨hfmt, hok⟩ := hlevels m hmem
  refine ⟨hphase, herr, fun _ => hdone (List.ne_nil_of_mem hmem), fun n hn => ?_, ?_⟩
  · rcases List.mem_or_eq_of_mem_set hn with hn | rfl
    · exact hlevels n hn
    · have hfmt' : n.fmt = m.fmt := by rw [(levelSet_some hset).1]
      exact ⟨hfmt' ▸ hfmt, hok.levelSet hset⟩
  · simpa [State.setSelected] using hcount

/-- Whatever befalls what the last call built, the invariant stays. -/
theorem CallEffect.inv {s t : State} (h : CallEffect s t) (hs : s.Inv) : t.Inv := by
  cases h with
  | keeps hsame => exact hsame.inv hs
  | reset => exact inv_hostReset s
  | writes hm hset => exact inv_setSelected hs hm hset
  | calls hend => exact hend.inv

/-- Settles O52: `step_callEffect` names the four effects of a step, and each keeps the invariant. -/
theorem stepKeepsInvariant : Obligations.StepKeepsInvariant := by
  intro s t hs h
  obtain ⟨rest, heffect⟩ := step_callEffect h
  exact heffect.inv hs

/-! ### The chain -/

/-- The chain invariant, its last clause over the levels that an index finds. -/
theorem chainOk_iff (s : State) : s.ChainOk ↔
    (s.phase = .done → s.probe = false → s.mip.length = s.mipCnt.toNat ∧ s.fmt ≠ none) ∧
    (s.phase = .done → s.probe = true → s.fmt = none) ∧
    s.fmt ≠ some (.packed .rgb565) ∧
    ∀ i m, s.mip[i]? = some m → m.w = mipDim s.params s.hWidth i ∧ m.h = mipDim s.params s.hHeight i := by
  refine and_congr_right' (and_congr_right' (and_congr_right' ⟨fun h i m hi => ?_, fun h i => ?_⟩))
  · obtain ⟨hlt, rfl⟩ := List.getElem?_eq_some_iff.mp hi
    exact h ⟨i, hlt⟩
  · exact h i s.mip[i] (List.getElem?_eq_getElem i.isLt)

/-- The chain invariant speaks only of what the last call built, the header and the parameters. -/
theorem SameCall.chainOk {s t : State} (h : SameCall s t) (hs : s.ChainOk) : t.ChainOk := by
  rw [chainOk_iff] at hs ⊢
  unfold State.hWidth State.hHeight
  rw [h.phase, h.fmt, h.probe, h.mip, h.mipCnt, h.hdrw, h.params]
  exact hs

/-- Without levels the dimensions of R206 ask nothing. -/
theorem chainOk_of_no_level {s : State} (hdone : s.phase = .done → s.probe = true ∧ s.fmt = none)
    (hfmt : s.fmt ≠ some (.packed .rgb565)) (hmip : s.mip = []) : s.ChainOk := by
  refine ⟨fun hp hf => ?_, fun hp _ => (hdone hp).2, hfmt, fun i => ?_⟩
  · rw [(hdone hp).1] at hf
    cases hf
  · exact absurd i.isLt (by simp [hmip])

/-- The reset input establishes the chain invariant. -/
theorem chainOk_hostReset (s : State) : (hostReset s).ChainOk :=
  chainOk_of_no_level (fun h => by cases h) (by simp) rfl

/-- Every decode call establishes the chain invariant, whatever the state was before. -/
theorem CallEnd.chainOk {b : Bool} {s t : State} (h : CallEnd b s t) : t.ChainOk := by
  rcases h.failed_or_probed_or_parsed with hfail | rfl | ⟨f, hp⟩
  · exact chainOk_of_no_level (fun h => by rw [hfail.phase] at h; cases h) hfail.fmt hfail.mip
  · exact chainOk_of_no_level (fun _ => ⟨rfl, rfl⟩) (by simp [afterFlags, afterHeader, beginCall]) rfl
  · rw [chainOk_iff, hp.width, hp.height]
    refine ⟨fun _ _ => ⟨hp.length, by simp [hp.fmt]⟩, fun _ h => ?_, by simpa [hp.fmt] using hp.fmt_ne,
      hp.built.dimensions⟩
    rw [hp.probe] at h
    cases h

/-- SET keeps the chain invariant: the level keeps its dimensions. -/
theorem chainOk_setSelected {s : State} {m m' : Level} {f : PackedFormat} {x y : Int} {v : Sample} (hs : s.ChainOk)
    (hm : s.selected = some m) (hset : levelSet s.params m f x y v = some m') : (s.setSelected m').ChainOk := by
  rw [chainOk_iff] at hs ⊢
  obtain ⟨hparse, hprobe, hfmt, hdims⟩ := hs
  refine ⟨fun hp hf => ?_, hprobe, hfmt, fun i n hn => ?_⟩
  · simpa [State.setSelected] using hparse hp hf
  · by_cases hi : s.selLevel.toNat = i
    · subst hi
      obtain rfl : m' = n := by
        simpa [State.setSelected, List.getElem?_set_self (List.getElem?_eq_some_iff.mp hm).1] using hn
      rw [(levelSet_some hset).1]
      exact hdims _ m hm
    · exact hdims i n (by rwa [State.setSelected_mip, List.getElem?_set_ne hi] at hn)

/-- Whatever befalls what the last call built, the chain invariant stays. -/
theorem CallEffect.chainOk {s t : State} (h : CallEffect s t) (hs : s.ChainOk) : t.ChainOk := by
  cases h with
  | keeps hsame => exact hsame.chainOk hs
  | reset => exact chainOk_hostReset s
  | writes hm hset => exact chainOk_setSelected hs hm hset
  | calls hend => exact hend.chainOk

/-- Settles O53: `step_callEffect` names the four effects of a step, and each keeps the chain invariant. -/
theorem stepKeepsChain : Obligations.StepKeepsChain := by
  intro s t hs h
  obtain ⟨rest, heffect⟩ := step_callEffect h
  exact heffect.chainOk hs

/-- Settles O51: both invariants hold of what the reset input leaves, and `State.reset` is that. -/
theorem resetSatisfiesInvariants : Obligations.ResetSatisfiesInvariants :=
  ⟨inv_hostReset State.reset, chainOk_hostReset State.reset⟩

end Sys2Proof.Machine
end

section
/-! SUPPORT. The register port (10_state.md R22, R34 to R37) and the host's script (30_encoding.md R90): what a read, a
write and a step of the script come to, said once; the statements on the port and on reset are read off it. -/

namespace Sys2Proof.Machine

/-! ### The register map (R36) -/

/-- A register is found under its own number. -/
@[simp] theorem regOfNumber_regNumber (r : Reg) : regOfNumber (regNumber r) = some r := by
  cases r with
  | hdrw i => revert i; decide
  | _ => rfl

/-- Above the level windows no number is listed. -/
theorem regOfNumber_of_ge {n : Nat} (h : 0x47 ≤ n) : regOfNumber n = none := by
  unfold regOfNumber
  split
  case h_31 => exact dif_neg (by omega)
  all_goals omega

/-- A number that finds a register is that register's number. -/
theorem regNumber_of_regOfNumber {n : Nat} {r : Reg} (h : regOfNumber n = some r) : regNumber r = n := by
  by_cases hn : n < 0x47
  · have hlisted : ∀ k : Fin 0x47, ∀ q ∈ regOfNumber k, regNumber q = k := by decide
    exact hlisted ⟨n, hn⟩ r h
  · rw [regOfNumber_of_ge (by omega)] at h
    cases h

/-- The unlisted numbers. -/
theorem regOfNumber_eq_none_iff (n : Nat) :
    regOfNumber n = none ↔ (0x08 ≤ n ∧ n ≤ 0x0F) ∨ n = 0x1F ∨ n = 0x3F ∨ 0x47 ≤ n := by
  by_cases hn : n < 0x47
  · have hlisted : ∀ k : Fin 0x47,
        regOfNumber k = none ↔ (0x08 ≤ k.val ∧ k.val ≤ 0x0F) ∨ k.val = 0x1F ∨ k.val = 0x3F ∨ 0x47 ≤ k.val := by decide
    exact hlisted ⟨n, hn⟩
  · exact iff_of_true (regOfNumber_of_ge (by omega)) (by omega)

/-- A read by a register's number reads the register. -/
@[simp] theorem portRead_regNumber (r : Reg) (s : State) : portRead (regNumber r) s = readReg r s := by
  simp [portRead]

/-- A write by a register's number, other than `CMD`'s, writes the register. -/
theorem portWrite_of_ne_cmd {n : Nat} {r : Reg} (hn : regOfNumber n = some r) (hr : r ≠ .cmd) (v : Int) (s : State) :
    portWrite n v s = .settled (writeReg r v s) := by
  unfold portWrite
  rw [hn]
  cases r with
  | cmd => exact absurd rfl hr
  | _ => rfl

/-! ### Reads and writes -/

/-- The registers a write changes: the read-write ones of R36. -/
def writableRegs : List Reg := [.selLevel, .argX, .argY, .argR, .argG, .argB, .argA, .unit, .blk, .stAddr]

/-- The windows: what they show depends on `SEL_LEVEL` and `ST_ADDR` (R34, R35). -/
def windowRegs : List Reg := [.stData, .lvFmt, .lvMinX, .lvMinY, .lvW, .lvH, .lvStride, .lvLen]

/-- A register that is neither written nor a window reads the same after any write. -/
theorem readReg_writeReg_readOnly {r' : Reg} (hw : r' ∉ writableRegs) (hwin : r' ∉ windowRegs) (r : Reg) (v : Int)
    (s : State) : readReg r' (writeReg r v s) = readReg r' s := by
  rw [writeReg_eq]
  cases r' with
  | selLevel | argX | argY | argR | argG | argB | argA | unit | blk | stAddr => exact absurd (by decide) hw
  | stData | lvFmt | lvMinX | lvMinY | lvW | lvH | lvStride | lvLen => exact absurd (by decide) hwin
  | _ => rfl

/-- A register that is written keeps its value when another one is written. -/
theorem readReg_writeReg_ne {r r' : Reg} (hw : r' ∈ writableRegs) (hne : r' ≠ r) (v : Int) (s : State) :
    readReg r' (writeReg r v s) = readReg r' s := by
  simp only [writableRegs, List.mem_cons, List.not_mem_nil, or_false] at hw
  rcases hw with rfl | rfl | rfl | rfl | rfl | rfl | rfl | rfl | rfl | rfl <;> cases r <;>
    first | rfl | exact absurd rfl hne

/-- A bit vector made of an integer is that integer modulo `2^w` (R22). -/
theorem natCast_toNat_ofInt (w : Nat) (v : Int) : ((BitVec.ofInt w v).toNat : Int) = v % 2 ^ w := by
  rw [BitVec.toNat_ofInt, Int.toNat_of_nonneg (Int.emod_nonneg _ (by positivity))]
  norm_cast

/-- A read-write register reads as written, modulo 2^width (R22, R37). -/
theorem readReg_writeReg_self {r : Reg} (hw : r ∈ writableRegs) (v : Int) (s : State) :
    (readReg r (writeReg r v s) : Int) = v % 2 ^ regWidth r := by
  simp only [writableRegs, List.mem_cons, List.not_mem_nil, or_false] at hw
  rcases hw with rfl | rfl | rfl | rfl | rfl | rfl | rfl | rfl | rfl | rfl <;> exact natCast_toNat_ofInt _ v

/-- A write to a read-only register is ignored (R37). -/
theorem writeReg_readOnly {r : Reg} (hr : r ∉ writableRegs) (v : Int) (s : State) : writeReg r v s = s := by
  cases r with
  | selLevel | argX | argY | argR | argG | argB | argA | unit | blk | stAddr => exact absurd (by decide) hr
  | _ => rfl

/-! ### The level windows (R34, R35) -/

theorem levelWindow_some {s : State} {m : Level} (h : s.selected = some m) (field : Level → Nat) :
    levelWindow s field = field m := by
  simp [levelWindow, h]

theorem levelWindow_none {s : State} (h : s.selected = none) (field : Level → Nat) : levelWindow s field = 0 := by
  simp [levelWindow, h]

/-- A window is as narrow as the field it shows. -/
theorem levelWindow_lt {n : Nat} {field : Level → Nat} (hn : 0 < n) (h : ∀ m, field m < n) (s : State) :
    levelWindow s field < n := by
  cases hs : s.selected with
  | none => rwa [levelWindow_none hs]
  | some m => rw [levelWindow_some hs]; exact h m

/-- A read is below `2^width` (R22). -/
theorem readReg_lt (r : Reg) (s : State) : readReg r s < 2 ^ regWidth r := by
  cases r with
  | cmd => exact Nat.two_pow_pos 8
  | nlev => exact Nat.mod_lt _ (Nat.two_pow_pos 32)
  | lvStride => exact levelWindow_lt (Nat.two_pow_pos 35) (fun _ => Nat.mod_lt _ (Nat.two_pow_pos 35)) s
  | lvLen => exact levelWindow_lt (Nat.two_pow_pos 67) (fun _ => Nat.mod_lt _ (Nat.two_pow_pos 67)) s
  | stData | lvFmt | lvMinX | lvMinY | lvW | lvH =>
    exact levelWindow_lt (Nat.two_pow_pos _) (fun _ => BitVec.isLt _) s
  | _ => exact BitVec.isLt _

/-- A stride fits in 34 bits: at most 2^32 pixels of 4 bytes, or 2^30 blocks of 16 (R163). -/
theorem strideOf_le (f : PixelFormat) (w : Word) : strideOf f w.toNat ≤ 2 ^ 34 := by
  have hw := w.isLt
  cases f with
  | packed f => cases f <;> simp only [strideOf, unitSize, packedUnitSize] <;> omega
  | block f => cases f <;> simp only [strideOf, unitSize, blockUnitSize, ceilDiv] <;> omega

/-- No more rows of units than rows of pixels (R164). -/
theorem rowsOf_le (f : PixelFormat) (h : Word) : rowsOf f h.toNat ≤ 2 ^ 32 := by
  have hh := h.isLt
  cases f <;> simp only [rowsOf, blockDim, ceilDiv] <;> omega

/-- A store's length fits in LV_LEN (R36, R165). -/
theorem lengthOf_lt (f : PixelFormat) (w h : Word) : lengthOf f w.toNat h.toNat < 2 ^ 67 :=
  (Nat.mul_le_mul (strideOf_le f w) (rowsOf_le f h)).trans_lt (by decide)

/-- Settles O10: with a level selected every window is that level's field, with none it is 0. -/
theorem levelWindows : Obligations.LevelWindows := by
  refine ⟨fun s m hm => ?_, fun s hs n hn => ?_⟩
  · have hwindow := levelWindow_some (show s.selected = some m from hm)
    refine ⟨hwindow _, hwindow _, hwindow _, hwindow _, hwindow _, fun hok => ?_, fun haddr => ?_, fun haddr => ?_⟩
    · obtain ⟨-, -, hstride, hlen, -, -⟩ := hok
      have h35 : m.stride < 2 ^ 35 := hstride ▸ (strideOf_le m.fmt m.w).trans_lt (by decide)
      have h67 : m.len < 2 ^ 67 := hlen ▸ lengthOf_lt m.fmt m.w m.h
      exact ⟨(hwindow _).trans (Nat.mod_eq_of_lt h35), (hwindow _).trans (Nat.mod_eq_of_lt h67)⟩
    · refine (hwindow _).trans ?_
      rw [storeWindow, if_pos haddr]
    · refine (hwindow _).trans ?_
      rw [storeWindow, if_neg haddr.not_gt]
      rfl
  · have hwindow := levelWindow_none (show s.selected = none from List.getElem?_eq_none hs)
    simp only [List.mem_cons, List.not_mem_nil, or_false] at hn
    rcases hn with rfl | rfl | rfl | rfl | rfl | rfl | rfl | rfl <;> exact hwindow _

/-! ### The host's script (R90) -/

/-- A step whose transaction is settled in the port. -/
theorem step_of_settled {s t : State} {a : HostAction} {rest : List HostAction} (hs : s.script = a :: rest)
    (ha : hostAct a { s with script := rest } = .settled t) : step s = .next t := by
  simp [step, fetch, hs, ha]

/-- The script is no part of what a register reads. -/
theorem portRead_withScript (n : Nat) (s : State) (rest : List HostAction) :
    portRead n { s with script := rest } = portRead n s := by
  unfold portRead
  cases regOfNumber n with
  | none => rfl
  | some r => cases r <;> rfl

/-- A register write and the script do not touch one another. -/
theorem writeReg_withScript (r : Reg) (v : Int) (s : State) (rest : List HostAction) :
    writeReg r v { s with script := rest } = { writeReg r v s with script := rest } := by
  cases r <;> rfl

/-- A step that reads a register adds its value to the observations and changes nothing else of the unit. -/
theorem step_read {s : State} {n : Nat} {rest : List HostAction} (hs : s.script = .rd n :: rest) :
    step s = .next { s with script := rest, observed := s.observed ++ [portRead n s] } := by
  rw [← portRead_withScript n s rest]
  exact step_of_settled hs rfl

/-- Settles O8: a register is written itself, keeps its value, or is a window. -/
theorem registersHoldWhatWasWritten : Obligations.RegistersHoldWhatWasWritten := by
  refine ⟨fun r _ v s => ⟨(sameCall_writeReg r v s).mip, fun r' hne hwin => ?_⟩, fun r s => ?_,
    fun s n rest t hs h => ?_⟩
  · rw [portRead_regNumber, portRead_regNumber]
    by_cases hw : r' ∈ writableRegs
    · exact readReg_writeReg_ne hw hne v s
    · exact readReg_writeReg_readOnly hw hwin r v s
  · rw [portRead_regNumber]
    exact readReg_lt r s
  · rw [step_read hs] at h
    cases h
    rfl

/-- Settles O4: the port issues the written byte and the step runs what it decodes to. -/
theorem stepRunsDecodedCommand : Obligations.StepRunsDecodedCommand := by
  intro s v rest i hs hd
  have hfetch : fetch s = .command (BitVec.ofInt 8 v) { s with script := rest } := by
    rw [fetch, hs]
    rfl
  simp only [step, hfetch, hd]

/-- Settles O5: each action but a command is settled in the port. -/
theorem hostActionsSettleInPort : Obligations.HostActionsSettleInPort := by
  refine ⟨fun s n rest hs => step_read hs, fun s d rest hs => step_of_settled hs rfl,
    fun s rest hs => step_of_settled hs rfl, fun s n v rest r hs hn hr => ?_, fun s hs => ?_⟩
  · rw [← writeReg_withScript]
    exact step_of_settled hs (portWrite_of_ne_cmd hn hr v _)
  · simp only [step, fetch, hs]

/-- Settles O7: the map by its two tables, the access by what a read and a write come to. -/
theorem registerMapNumbers : Obligations.RegisterMapNumbers := by
  refine ⟨rfl, rfl, rfl, rfl, fun _ => ⟨rfl, rfl⟩, regOfNumber_regNumber, fun _ _ => regNumber_of_regOfNumber,
    regOfNumber_eq_none_iff, fun n s v hn => ?_, fun r hr v s => ?_, fun r hr v s => ?_, fun _ _ => ⟨rfl, rfl⟩⟩
  · exact ⟨by simp [portRead, hn], by simp [portWrite, hn]⟩
  · have hcmd : r ≠ .cmd := by rintro rfl; exact absurd hr (by decide)
    refine ⟨writeReg r v s, portWrite_of_ne_cmd (regOfNumber_regNumber r) hcmd v s, ?_⟩
    rw [portRead_regNumber]
    exact readReg_writeReg_self hr v s
  · have hcmd : r ≠ .cmd := List.ne_of_not_mem_cons hr
    have hw : r ∉ writableRegs := List.not_mem_of_not_mem_cons hr
    rw [portWrite_of_ne_cmd (regOfNumber_regNumber r) hcmd, writeReg_readOnly hw]

/-! ### Reset and `STATUS` -/

/-- Settles O6: the reset input leaves the unit's side of `State.reset`, whatever the state was before. -/
theorem resetValues : Obligations.ResetValues := by
  have hheader (i : Nat) (h : i < 31) : (Vector.replicate 31 (0 : Word))[i] = 0 := by simp
  have hstatus : statusWord State.reset = 0 := by decide
  rintro s t (rfl | rfl) <;>
    exact ⟨rfl, rfl, rfl, rfl, rfl, hstatus, rfl, rfl, rfl, rfl, rfl, rfl, rfl, hheader, rfl, rfl, rfl, rfl, rfl, rfl,
      rfl, rfl, rfl⟩

/-- `STATUS` as its fields one after another, from bit 15 down, with their widths (R25). -/
theorem statusWord_eq_fields (s : State) :
    statusWord s =
      ((0 : BitVec 3) ++ BitVec.ofBool s.probe ++ fmtField s.fmt ++ BitVec.ofBool s.fmt.isSome ++
        BitVec.ofBool s.cmdErr ++ errField s.err ++ (0 : BitVec 1) ++ phaseCode s.phase :
          BitVec (3 + 1 + 3 + 1 + 1 + 3 + 1 + 3)) := rfl

/-- Settles O9: a field's bits are found by passing over the fields below it. -/
theorem statusFields : Obligations.StatusFields := by
  refine ⟨fun s => ?_, rfl, rfl, rfl⟩
  rw [statusWord_eq_fields]
  refine ⟨?phase, ?bit3, ?err, ?cmdErr, ?fmtv, ?fmt, ?probe, ?high⟩
  case bit3 | cmdErr | fmtv | probe =>
    simp only [BitVec.getLsbD_append]
    simp
  case phase | err | fmt | high =>
    simp (disch := decide) only [BitVec.extractLsb'_append_eq_of_le, BitVec.extractLsb'_append_eq_of_add_le,
      Nat.reduceSub, BitVec.extractLsb'_eq_self]

end Sys2Proof.Machine
end

section
/-! SUPPORT. The input stream and the level stores (20_memory.md R52 to R54): what a read of the stream takes and where
it leaves `POS`, and what a store's canonical form says of its cells. -/

namespace Sys2Proof.Machine

/-! ### The stream (R52) -/

/-- A read of the stream takes what is left of it, up to the bytes asked for. -/
theorem streamTake_eq (n : Nat) (s : State) : streamTake n s = (s.input.drop s.pos.toNat).take n := by
  rw [streamTake, ← List.length_drop, ← List.take_take, List.take_length]

/-- The bytes of a read are the stream's, from `POS` on. -/
theorem getElem?_streamTake {n i : Nat} {s : State} (hi : i < (streamTake n s).length) :
    (streamTake n s)[i]? = s.input[s.pos.toNat + i]? := by
  rw [streamTake_eq] at hi ⊢
  rw [List.getElem?_take_of_lt (hi.trans_le (List.length_take_le n _)), List.getElem?_drop]

/-- A read of a stream that R51 admits moves `POS` inside the stream, so `POS` does not wrap. -/
theorem toNat_streamAdvance_pos {n : Nat} {s : State} (hp : s.pos.toNat ≤ s.input.length)
    (hl : s.input.length < 2 ^ 64) :
    (streamAdvance n s).pos.toNat = s.pos.toNat + min n (s.input.length - s.pos.toNat) := by
  have hlen : (streamTake n s).length = min n (s.input.length - s.pos.toNat) := by simp [streamTake_eq]
  rw [streamAdvance_pos, hlen, BitVec.toNat_add, BitVec.toNat_ofNat, Nat.add_mod_mod, Nat.mod_eq_of_lt (by omega)]

/-- Settles O11: the bytes a read takes, and where it leaves `POS`. -/
theorem streamReadConsumes : Obligations.StreamReadConsumes := by
  intro s n hp hl
  exact ⟨by simp [streamTake_eq], fun i hi => getElem?_streamTake hi, toNat_streamAdvance_pos hp hl, rfl⟩

/-! ### The canonical form of a store (log entry 4) -/

/-- The canonical form of a store with a first cell. -/
theorem Memory.wfFrom_cons {lo : Nat} {c : Host.Cell} {m : Memory} :
    Memory.wfFrom lo (c :: m) = true ↔ lo ≤ c.1 ∧ c.2 ≠ unlistedByte ∧ Memory.wfFrom (c.1 + 1) m = true := by
  simp [Memory.wfFrom, and_assoc]

theorem Memory.read_cons_self (c : Host.Cell) (m : Memory) : Memory.read (c :: m) c.1 = c.2 := if_pos rfl

theorem Memory.read_cons_ne {c : Host.Cell} {m : Memory} {a : Nat} (h : c.1 ≠ a) :
    Memory.read (c :: m) a = Memory.read m a := if_neg h

/-- The first cell of a store is read as a byte that no unlisted offset reads as, so a store that reads the same lists
an offset no higher. -/
theorem Memory.first_le_of_read_eq {lo lo' : Nat} {c c' : Host.Cell} {m m' : Memory}
    (hm : Memory.wfFrom lo (c :: m) = true) (hm' : Memory.wfFrom lo' (c' :: m') = true)
    (h : ∀ a, Memory.read (c :: m) a = Memory.read (c' :: m') a) : c'.1 ≤ c.1 := by
  obtain ⟨-, hc, -⟩ := Memory.wfFrom_cons.mp hm
  obtain ⟨-, hc', hrest'⟩ := Memory.wfFrom_cons.mp hm'
  by_contra hlt
  refine hc ?_
  calc c.2 = Memory.read (c' :: m') c.1 := by rw [← h, Memory.read_cons_self]
    _ = unlistedByte := Memory.read_below (by omega) (Memory.wfFrom_cons.mpr ⟨le_rfl, hc', hrest'⟩)

/-- Stores in canonical form that read the same are the same list of cells. -/
theorem Memory.eq_of_read_eq (m : Memory) : ∀ {lo lo' : Nat} {m' : Memory}, Memory.wfFrom lo m = true →
    Memory.wfFrom lo' m' = true → (∀ a, Memory.read m a = Memory.read m' a) → m = m' := by
  induction m with
  | nil =>
    rintro lo lo' (_ | ⟨c', m'⟩) - hm' h
    · rfl
    · exact absurd ((h c'.1).trans (Memory.read_cons_self c' m')).symm (Memory.wfFrom_cons.mp hm').2.1
  | cons c m ih =>
    rintro lo lo' (_ | ⟨c', m'⟩) hm hm' h
    · exact absurd ((Memory.read_cons_self c m).symm.trans (h c.1)) (Memory.wfFrom_cons.mp hm).2.1
    · have hoff : c.1 = c'.1 :=
        le_antisymm (Memory.first_le_of_read_eq hm' hm fun a => (h a).symm) (Memory.first_le_of_read_eq hm hm' h)
      have hbyte : c.2 = c'.2 := by
        rw [← Memory.read_cons_self c m, h, hoff, Memory.read_cons_self]
      obtain ⟨-, -, hrest⟩ := Memory.wfFrom_cons.mp hm
      obtain ⟨-, -, hrest'⟩ := Memory.wfFrom_cons.mp hm'
      obtain rfl : c = c' := Prod.ext hoff hbyte
      refine congrArg (c :: ·) (ih hrest hrest' fun a => ?_)
      by_cases ha : c.1 = a
      · rw [Memory.read_below (by omega) hrest, Memory.read_below (by omega) hrest']
      · rw [← Memory.read_cons_ne ha, h, Memory.read_cons_ne ha]

/-- Settles O59: by induction over the cells, the first cell of each store being read off the store. -/
theorem storesAreCanonical : Obligations.StoresAreCanonical :=
  fun m _ hm hm' h => Memory.eq_of_read_eq m hm hm' h

end Sys2Proof.Machine
end

section
/-! SUPPORT. Bytes after the last one consumed (20_memory.md R53): a phase that does not fail does the same on a stream
with bytes appended, and so does a whole decode call. -/

namespace Sys2Proof.Machine

/-- `s` with the bytes `d` after the end of its input stream. -/
def State.withTrailing (d : List Byte) (s : State) : State := { s with input := s.input ++ d }

@[simp] theorem State.withTrailing_input (d : List Byte) (s : State) : (s.withTrailing d).input = s.input ++ d := rfl
@[simp] theorem State.withTrailing_pos (d : List Byte) (s : State) : (s.withTrailing d).pos = s.pos := rfl
@[simp] theorem State.withTrailing_phase (d : List Byte) (s : State) : (s.withTrailing d).phase = s.phase := rfl
@[simp] theorem State.withTrailing_levelIdx (d : List Byte) (s : State) :
    (s.withTrailing d).levelIdx = s.levelIdx := rfl
@[simp] theorem State.withTrailing_mipCnt (d : List Byte) (s : State) : (s.withTrailing d).mipCnt = s.mipCnt := rfl
@[simp] theorem State.withTrailing_params (d : List Byte) (s : State) : (s.withTrailing d).params = s.params := rfl

/-- A read that is not short takes the same bytes whatever follows them. -/
theorem streamTake_withTrailing {n : Nat} {s : State} (h : ¬ (streamTake n s).length < n) (d : List Byte) :
    streamTake n (s.withTrailing d) = streamTake n s := by
  simp only [streamTake_eq, List.length_take] at h ⊢
  rw [State.withTrailing_input, State.withTrailing_pos, List.drop_append, List.take_append_of_le_length (by omega)]

/-- A read that is not short consumes the same bytes whatever follows them. -/
theorem streamAdvance_withTrailing {n : Nat} {s : State} (h : ¬ (streamTake n s).length < n) (d : List Byte) :
    streamAdvance n (s.withTrailing d) = (streamAdvance n s).withTrailing d := by
  unfold streamAdvance
  rw [streamTake_withTrailing h]
  rfl

/-- READ_MAGIC that finds the magic reads nothing after it (R194). -/
theorem readMagic_withTrailing {s : State} (h : (readMagic s).phase ≠ .failed) (d : List Byte) :
    readMagic (s.withTrailing d) = (readMagic s).withTrailing d := by
  unfold readMagic at h ⊢
  have hd : ¬ ((streamTake 4 s).length < 4 ∨ streamTake 4 s ≠ ddsMagic) := fun hd => h (by simp [if_pos hd])
  have hfull : ¬ (streamTake 4 s).length < 4 := fun hs => hd (.inl hs)
  simp only [streamTake_withTrailing hfull, streamAdvance_withTrailing hfull, if_neg hd]
  rfl

/-- READ_HEADER that passes reads nothing after the header (R195, R196). -/
theorem readHeader_withTrailing {s : State} (h : (readHeader s).phase ≠ .failed) (d : List Byte) :
    readHeader (s.withTrailing d) = (readHeader s).withTrailing d := by
  have hfull : ¬ (streamTake headerBytes s).length < headerBytes := fun hs => h (by simp [readHeader, if_pos hs])
  unfold readHeader
  simp only [streamTake_withTrailing hfull, streamAdvance_withTrailing hfull, apply_ite (State.withTrailing d)]
  rfl

/-- A level read in full is the same whatever follows it (R207). -/
theorem readLevel_withTrailing {m : Level} {s : State} (h : (readLevel m s).phase ≠ .failed) (d : List Byte) :
    readLevel m (s.withTrailing d) = (readLevel m s).withTrailing d := by
  have hfull : ¬ (streamTake m.len s).length < m.len := fun hs => h (by simp [readLevel, if_pos hs])
  unfold readLevel
  simp only [streamTake_withTrailing hfull, streamAdvance_withTrailing hfull, if_neg hfull]
  rfl

/-- VALIDATE_FLAGS reads no stream (R198). -/
theorem validateFlags_withTrailing (s : State) (d : List Byte) :
    validateFlags (s.withTrailing d) = (validateFlags s).withTrailing d := by
  unfold validateFlags
  rw [apply_ite (State.withTrailing d)]
  rfl

/-- CLASSIFY reads no stream (R201). -/
theorem classifyFormat_withTrailing (s : State) (d : List Byte) :
    classifyFormat (s.withTrailing d) = (classifyFormat s).withTrailing d := by
  have hc : classifyHeader (s.withTrailing d) = classifyHeader s := rfl
  unfold classifyFormat
  rw [hc]
  cases classifyHeader s <;> rfl

/-- A turn of BUILD_MIP that does not fail reads nothing after its level (R205). -/
theorem buildMip_withTrailing {s t : State} (h : buildMip s = .next t) (ht : t.phase ≠ .failed) (d : List Byte) :
    buildMip (s.withTrailing d) = .next (t.withTrailing d) := by
  have hlevel (i : Nat) : levelFor (s.withTrailing d) i = levelFor s i := rfl
  have htotal : (s.withTrailing d).storeTotal = s.storeTotal := rfl
  unfold buildMip at h ⊢
  simp only [State.withTrailing_levelIdx, State.withTrailing_mipCnt, State.withTrailing_params, hlevel, htotal]
  split_ifs at h ⊢ <;> cases h
  · rw [readLevel_withTrailing ht]
  · rfl

/-- A transition that does not fail is the same whatever follows the bytes it reads (R191). -/
theorem phaseStep_withTrailing {s t : State} (h : phaseStep s = .next t) (ht : t.phase ≠ .failed) (d : List Byte) :
    phaseStep (s.withTrailing d) = .next (t.withTrailing d) := by
  unfold phaseStep at h ⊢
  rw [State.withTrailing_phase]
  cases hp : s.phase <;> simp only [hp] at h ⊢
  case buildMip => exact buildMip_withTrailing h ht d
  all_goals cases h
  case idle | done | failed => rfl
  case readMagic => rw [readMagic_withTrailing ht]
  case readHeader => rw [readHeader_withTrailing ht]
  case validateFlags => rw [validateFlags_withTrailing]
  case classify => rw [classifyFormat_withTrailing]

/-- A run that does not end failed did not begin failed. -/
theorem runPhases_ne_failed {n : Nat} {s t : State} (h : runPhases n s = .next t) (ht : t.phase ≠ .failed) :
    s.phase ≠ .failed := fun hf => by
  rw [runPhases_resting n s (by rw [hf]; rfl)] at h
  cases h
  exact ht hf

/-- A run that does not fail is the same whatever follows the bytes it reads. -/
theorem runPhases_withTrailing (d : List Byte) (n : Nat) : ∀ {s t : State}, runPhases n s = .next t →
    t.phase ≠ .failed → runPhases n (s.withTrailing d) = .next (t.withTrailing d) := by
  induction n with
  | zero =>
    intro s t h _
    cases h
    rfl
  | succ n ih =>
    intro s t h ht
    by_cases hr : resting s.phase = true
    · rw [runPhases_resting _ _ hr] at h
      cases h
      exact runPhases_resting _ _ hr
    · rw [Bool.not_eq_true] at hr
      cases hstep : phaseStep s with
      | next u =>
        rw [runPhases_next n s u hr hstep] at h
        rw [runPhases_next n (s.withTrailing d) _ hr (phaseStep_withTrailing hstep (runPhases_ne_failed h ht) d)]
        exact ih h ht
      | fault r => simp [runPhases, hr, hstep] at h
      | refused r => simp [runPhases, hr, hstep] at h

/-- A decode call that does not fail is the same whatever follows the bytes it reads. -/
theorem decodeCall_withTrailing {b : Bool} {s t : State} {d : List Byte} (h : decodeCall b s = .next t)
    (ht : t.phase ≠ .failed) (hl : (s.input ++ d).length < 2 ^ 64) :
    decodeCall b (s.withTrailing d) = .next (t.withTrailing d) := by
  have hlen : s.input.length < 2 ^ 64 := by simp at hl; omega
  have hbegin : beginCall b (s.withTrailing d) = (beginCall b s).withTrailing d := rfl
  unfold decodeCall at h ⊢
  rw [if_pos hlen] at h
  rw [State.withTrailing_input, if_pos hl, hbegin]
  cases hrun : runPhases 4 (beginCall b s) with
  | next u =>
    simp only [hrun] at h
    simp only [runPhases_withTrailing d 4 hrun (runPhases_ne_failed h ht)]
    exact runPhases_withTrailing d _ h ht
  | fault r => simp [hrun] at h
  | refused r => simp [hrun] at h

/-- The two ways a decode call ends in DONE: a PROBE with the header read, or a PARSE with the chain built and its
levels consumed (43_container_parser.md R192, R193, R209). -/
theorem CallEnd.done_cases {b : Bool} {s t : State} (h : CallEnd b s t) (hd : t.phase = .done) :
    (128 ≤ s.input.length ∧ t = afterFlags true s) ∨
    (b = false ∧ ∃ f levels, 128 + (levels.map Level.len).sum ≤ s.input.length ∧
      t = { building f s (declaredLevels s) (128 + (levels.map Level.len).sum) levels with phase := .done }) := by
  cases h with
  | magic | header | ext | flags | format => cases hd
  | probed _ _ h128 => exact .inl ⟨h128, rfl⟩
  | levels f _ hb _ _ _ _ _ _ hend =>
    cases hr : callLevels s.params f s.input (declaredLevels s) 0 128 [] with
    | failed e pos =>
      rw [hr] at hend
      obtain ⟨-, -, j, -, -, -, rfl⟩ := hend
      cases hd
    | probed w h' depth pos =>
      rw [hr] at hend
      exact hend.elim
    | parsed g levels pos =>
      rw [hr] at hend
      obtain ⟨rfl, -, rfl, hle, rfl⟩ := hend
      exact .inr ⟨hb, g, levels, hle, rfl⟩

/-- A call that ends in DONE leaves the stream as it was. -/
theorem CallEnd.input_of_done {b : Bool} {s t : State} (h : CallEnd b s t) (hd : t.phase = .done) :
    t.input = s.input := by
  rcases h.done_cases hd with ⟨-, rfl⟩ | ⟨-, f, levels, -, rfl⟩ <;> rfl

/-- A call that ends in DONE has consumed the magic, the header and its levels. -/
theorem CallEnd.pos_of_done {b : Bool} {s t : State} (h : CallEnd b s t) (hl : s.input.length < 2 ^ 64)
    (hd : t.phase = .done) : t.pos.toNat = 128 + (t.mip.map Level.len).sum := by
  rcases h.done_cases hd with ⟨h128, rfl⟩ | ⟨-, f, levels, hle, rfl⟩
  · calc (afterFlags true s).pos.toNat = min 128 s.input.length := afterHeader_pos true s hl
      _ = 128 := Nat.min_eq_left h128
  · exact (BitVec.toNat_ofNat _ _).trans (Nat.mod_eq_of_lt (by omega))

/-- A PROBE that ends in DONE has built no level (43_container_parser.md R193). -/
theorem CallEnd.mip_of_probe_done {s t : State} (h : CallEnd true s t) (hd : t.phase = .done) : t.mip = [] := by
  rcases h.done_cases hd with ⟨-, rfl⟩ | ⟨hb, -⟩
  · rfl
  · cases hb

/-- Settles O45: `POS` by the two ways a call ends in DONE, the appended bytes by `decodeCall_withTrailing`. -/
theorem trailingBytesUnread : Obligations.TrailingBytesUnread := by
  refine ⟨fun s t h hd => ?_, fun s t h hd => ?_, fun c s t d hc h hd hl => ?_⟩
  · obtain ⟨hlen, hend⟩ := exec_decodeCall_next _ s t rfl h
    exact hend.pos_of_done hlen hd
  · obtain ⟨hlen, hend⟩ := exec_decodeCall_next _ s t rfl h
    rw [hend.pos_of_done hlen hd, hend.mip_of_probe_done hd]
    rfl
  · obtain ⟨-, hend⟩ := exec_decodeCall_next c s t hc h
    have htrail : t.withTrailing d = { t with input := s.input ++ d } := by
      rw [State.withTrailing, hend.input_of_done hd]
    rw [exec_decodeCall c _ hc] at h ⊢
    rw [← htrail]
    exact decodeCall_withTrailing h (by simp [hd]) hl

end Sys2Proof.Machine
end

section
/-! SUPPORT. Where the machine stops: no fault under the invariant (20_memory.md R55, 42_pixel_buffer.md R169), and the
refusals at a stream that does not exist and at a bounded capacity (20_memory.md R51, 43_container_parser.md R210). -/

namespace Sys2Proof.Machine

/-! ### A pixel's unit lies inside its store (42_pixel_buffer.md R169) -/

/-- A unit of `u` bytes in column `i` of `cols` and row `j` of `rows` lies inside the rows of units. -/
theorem unit_le_length {i j cols rows u : Nat} (hi : i < cols) (hj : j < rows) :
    cols * u * j + i * u + u ≤ cols * u * rows := by
  calc cols * u * j + i * u + u = cols * u * j + (i + 1) * u := by ring
    _ ≤ cols * u * j + cols * u := by gcongr; omega
    _ = cols * u * (j + 1) := by ring
    _ ≤ cols * u * rows := by gcongr; omega

/-- The units of `k` pixels that cover `n` pixels hold every pixel `v < n`. -/
theorem div_lt_ceilDiv {v n k : Nat} (hk : 0 < k) (h : v < n) : v / k < ceilDiv n k := by
  calc v / k < v / k + 1 := Nat.lt_succ_self _
    _ = (v + k) / k := (Nat.add_div_right v hk).symm
    _ ≤ (n + k - 1) / k := Nat.div_le_div_right (by omega)

theorem blockDim_pos (f : PixelFormat) : 0 < blockDim f := by
  cases f <;> simp [blockDim]

/-- The stride is the units that cover a row of pixels (R163), for both kinds of format. -/
theorem strideOf_eq (f : PixelFormat) (w : Nat) : strideOf f w = ceilDiv w (blockDim f) * unitSize f := by
  cases f <;> simp [strideOf, blockDim, ceilDiv]

/-- Inside the rectangle of a level the unit builds, a pixel's coordinates are naturals below its sizes (R161, R162). -/
theorem Level.Ok.coords {m : Level} {x y : Int} (hm : m.Ok) (hr : inRectangle m x y) :
    ∃ i j : Nat, x = i ∧ y = j ∧ i < m.w.toNat ∧ j < m.h.toNat := by
  obtain ⟨hx, hy, -⟩ := hm
  have hzero : (0 : DWord).toInt = 0 := rfl
  simp only [inRectangle, hx, hy, hzero] at hr
  exact ⟨x.toNat, y.toNat, by omega, by omega, by omega, by omega⟩

/-- The offset of a pixel is that of its unit, in units by column and row (R167, R168). -/
theorem Level.Ok.offsetOf_natCast {m : Level} (hm : m.Ok) (i j : Nat) :
    offsetOf m i j = (m.stride * (j / blockDim m.fmt) + i / blockDim m.fmt * unitSize m.fmt : Nat) := by
  obtain ⟨hx, hy, -⟩ := hm
  unfold offsetOf
  cases m.fmt with
  | packed f => simp [hx, hy, blockDim, mul_comm]
  | block f => simp [blockDim]

/-- The unit that holds a pixel inside the rectangle lies inside the store (R167 to R169). -/
theorem Level.Ok.offsetOf_bounds {m : Level} {x y : Int} (hm : m.Ok) (hr : inRectangle m x y) :
    0 ≤ offsetOf m x y ∧ offsetOf m x y + unitSize m.fmt ≤ m.len := by
  obtain ⟨i, j, rfl, rfl, hi, hj⟩ := hm.coords hr
  rw [hm.offsetOf_natCast]
  obtain ⟨-, -, hstride, hlen, -, -⟩ := hm
  have hunit := unit_le_length (u := unitSize m.fmt) (div_lt_ceilDiv (blockDim_pos m.fmt) hi)
    (div_lt_ceilDiv (blockDim_pos m.fmt) hj)
  rw [hlen, hstride, lengthOf, rowsOf, strideOf_eq]
  exact ⟨Int.natCast_nonneg _, mod_cast hunit⟩

/-- So a MemRead or MemWrite of the unit is defined (20_memory.md R55). -/
theorem Level.Ok.storeCovers_offsetOf {m : Level} {x y : Int} (hm : m.Ok) (hr : inRect m x y = true) :
    storeCovers m (offsetOf m x y) (unitSize m.fmt) = true := by
  simpa [storeCovers] using hm.offsetOf_bounds ((inRect_iff m x y).mp hr)

/-! ### The commands that stop -/

/-- The fault of AT and SET (log entry 8): the selected level's store does not cover the unit of a pixel inside the
rectangle. -/
def State.uncovered (s : State) : Prop :=
  ∃ m, s.selected = some m ∧ inRect m s.x s.y = true ∧
    storeCovers m (offsetOf m s.x s.y) (unitSize m.fmt) = false

/-- Under the invariant the unit of a pixel is covered. -/
theorem State.Inv.not_uncovered {s : State} (hs : s.Inv) : ¬ s.uncovered := by
  rintro ⟨m, hm, hr, hc⟩
  obtain ⟨-, -, -, hlevels, -⟩ := hs
  have hcover := (hlevels m (List.mem_of_getElem? hm)).2.storeCovers_offsetOf hr
  rw [hc] at hcover
  cases hcover

/-- MemRead is not defined where the store does not cover it (20_memory.md R55). -/
theorem storeCovers_of_memRead_none {m : Level} {off : Int} {n : Nat} (h : memRead m off n = none) :
    storeCovers m off n = false := by
  simpa [memRead] using h

/-- MemWrite is not defined where the store does not cover it (20_memory.md R56). -/
theorem storeCovers_of_memWrite_none {m : Level} {off : Int} {d : List Byte} (h : memWrite m off d = none) :
    storeCovers m off d.length = false := by
  simpa [memWrite] using h

/-- AT completes, or it faults where the store does not cover the unit. -/
theorem execAt_next_or_uncovered (s : State) :
    (∃ t, execAt s = .next t) ∨ execAt s = .fault .storeAccess ∧ s.uncovered := by
  rcases execAt_cases s with ⟨-, he⟩ | ⟨m, -, -, he⟩ | ⟨m, k, -, -, -, he⟩ | ⟨m, hm, hr, hk, he⟩
  · exact .inl ⟨_, he⟩
  · exact .inl ⟨_, he⟩
  · exact .inl ⟨_, he⟩
  · exact .inr ⟨he, m, hm, hr, storeCovers_of_memRead_none hk⟩

/-- SET completes, or it faults where the store does not cover the unit. -/
theorem execSet_next_or_uncovered (s : State) :
    (∃ t, execSet s = .next t) ∨ execSet s = .fault .storeAccess ∧ s.uncovered := by
  unfold execSet
  split
  case h_1 => exact .inl ⟨_, rfl⟩
  case h_2 m hm =>
    split
    case h_1 => exact .inl ⟨_, rfl⟩
    case h_2 f hf =>
      rcases setPacked_cases m f s with ⟨-, he⟩ | ⟨m', -, -, he⟩ | ⟨hr, hset, he⟩
      · exact .inl ⟨_, he⟩
      · exact .inl ⟨_, he⟩
      · have hc := storeCovers_of_memWrite_none hset
        rw [length_bytesLE] at hc
        exact .inr ⟨he, m, hm, hr, by rwa [hf]⟩

/-- BLKPIX completes, refused with cmderr or not. -/
theorem blkpixCommandOf_next (f : BlockFormat) (s : State) : ∃ t, blkpixCommandOf f s = .next t := by
  unfold blkpixCommandOf
  split <;> exact ⟨_, rfl⟩

/-- A command that is no decode call completes, or it faults where the store does not cover the unit. -/
theorem exec_next_or_uncovered {i : Instr} (hi : isDecodeCall i = false) (s : State) :
    (∃ t, exec i s = .next t) ∨ exec i s = .fault .storeAccess ∧ s.uncovered := by
  cases i with
  | parse | probe => cases hi
  | atPixel => exact execAt_next_or_uncovered s
  | setPixel => exact execSet_next_or_uncovered s
  | unpackBgra8888 | unpackBgr565 | unpackBgra5551 | unpackBgra4444 | unpackRgb565 => exact .inl ⟨_, rfl⟩
  | packBgra8888 | packBgr565 | packBgra5551 | packBgra4444 | packRgb565 => exact .inl ⟨_, rfl⟩
  | blkpixDxt1 | blkpixDxt3 | blkpixDxt5 => exact .inl (blkpixCommandOf_next _ s)

/-- A decode call on a stream that R51 says does not exist (log entry 7). -/
theorem decodeCall_of_long (b : Bool) {s : State} (hl : 2 ^ 64 ≤ s.input.length) :
    decodeCall b s = .refused .streamTooLong := if_neg (not_lt.mpr hl)

/-- No decode call faults (60_exceptions.md R232). -/
theorem decodeCall_ne_fault (b : Bool) (s : State) (r : Fault) : decodeCall b s ≠ .fault r := by
  rcases lt_or_ge s.input.length (2 ^ 64) with hl | hl
  · rcases decodeCall_ends b s hl with ⟨t, he, -⟩ | ⟨-, -, he⟩ | ⟨-, -, he⟩ <;> simp [he]
  · simp [decodeCall_of_long b hl]

/-- A command faults only where the store does not cover the unit. -/
theorem uncovered_of_exec_fault {i : Instr} {s : State} {r : Fault} (h : exec i s = .fault r) : s.uncovered := by
  cases hi : isDecodeCall i with
  | true =>
    rw [exec_decodeCall i s hi] at h
    exact absurd h (decodeCall_ne_fault _ s r)
  | false =>
    rcases exec_next_or_uncovered hi s with ⟨t, he⟩ | ⟨-, hs⟩
    · rw [he] at h
      cases h
    · exact hs

/-- Only a decode call is refused by name. -/
theorem isDecodeCall_of_exec_refused {i : Instr} {s : State} {r : Refusal} (h : exec i s = .refused r) :
    isDecodeCall i = true := by
  by_contra hi
  rw [Bool.not_eq_true] at hi
  rcases exec_next_or_uncovered hi s with ⟨t, he⟩ | ⟨he, -⟩ <;> rw [he] at h <;> cases h

/-- The decode call that is no PROBE. -/
theorem eq_parse_of_ne_probe {i : Instr} (hi : isDecodeCall i = true) (hb : decide (i = .probe) = false) :
    i = .parse := by
  cases i with
  | parse => rfl
  | probe => simp at hb
  | _ => cases hi

/-- The state a command runs on is the state of the step, the transaction taken off the script. -/
theorem fetch_command {s t : State} {w : Byte} (h : fetch s = .command w t) :
    ∃ rest, t = { s with script := rest } := by
  unfold fetch at h
  split at h
  case h_1 => cases h
  case h_2 a rest _ =>
    refine ⟨rest, ?_⟩
    cases a with
    | wr n v =>
      simp only [hostAct, portWrite] at h
      split at h <;> cases h
      rfl
    | rd n | stream d | reset => cases h

/-- A step faults only by its command. -/
theorem exec_of_step_fault {s : State} {r : Fault} (h : step s = .fault r) :
    ∃ i rest, exec i { s with script := rest } = .fault r := by
  unfold step at h
  split at h
  case h_1 => cases h
  case h_2 w t hfetch =>
    obtain ⟨rest, rfl⟩ := fetch_command hfetch
    split at h
    case h_1 i _ => exact ⟨i, rest, h⟩
    case h_2 => cases h

/-- Settles O57: a fault needs a unit that the store does not cover; the refusals are read off the ends of a call. -/
theorem onlyNamedStops : Obligations.OnlyNamedStops := by
  refine ⟨fun s r hs h => ?_, fun i s r h => ?_⟩
  · obtain ⟨i, rest, hexec⟩ := exec_of_step_fault h
    have hinv : State.Inv { s with script := rest } := hs
    exact hinv.not_uncovered (uncovered_of_exec_fault hexec)
  · have hi := isDecodeCall_of_exec_refused h
    refine ⟨hi, ?_⟩
    rw [exec_decodeCall i s hi] at h
    rcases lt_or_ge s.input.length (2 ^ 64) with hl | hl
    · rcases decodeCall_ends (decide (i = .probe)) s hl with ⟨t, he, -⟩ | ⟨hb, hcap, he⟩ | ⟨hb, hcap, he⟩ <;>
        rw [he] at h <;> cases h
      · exact .inr (.inl ⟨eq_parse_of_ne_probe hi hb, rfl, hcap⟩)
      · exact .inr (.inr ⟨eq_parse_of_ne_probe hi hb, rfl, hcap⟩)
    · rw [decodeCall_of_long _ hl] at h
      cases h
      exact .inl ⟨hl, rfl⟩

/-! ### The point of a call at which it stops (log entries 5 and 6) -/

/-- A PARSE that has classified is the loop of BUILD_MIP. -/
theorem exec_parse_of_classified {s : State} {f : PixelFormat} (hl : s.input.length < 2 ^ 64)
    (hmagic : s.input.take 4 = [0x44, 0x44, 0x53, 0x20]) (h128 : 128 ≤ s.input.length)
    (hsize : streamWord s.input 0 = 124) (htag : streamWord s.input 20 ≠ 0x30315844)
    (hflags : streamFlagsPresent s.params s.input) (hf : streamFormat s.params s.input = some f) :
    exec .parse s = runPhases (declaredLevels s + 1) (building f s 0 128 []) := by
  have hheader : ¬ (s.input.length < 128 ∨ streamWord s.input 0 ≠ 124) := by simp [hsize, h128]
  rw [exec_decodeCall .parse s rfl, decodeCall_cases _ s hl, if_neg (not_not.mpr hmagic), if_neg hheader, if_neg htag,
    if_neg (not_not.mpr hflags), ← afterClassify_eq_building f s h128, hf]
  rfl

/-- The loop is refused at its first turn when the mip count exceeds a bounded `MAX_MIP_LEVELS`. -/
theorem runPhases_building_levelTableBound (f : PixelFormat) {s : State}
    (h : exceeds s.params.maxMipLevels (declaredLevels s) = true) (hpos : 0 < declaredLevels s) :
    runPhases (declaredLevels s + 1) (building f s 0 128 []) = .refused .levelTableBound := by
  have hstep := phaseStep_building f s 0 128 [] hpos rfl
  rw [if_pos h] at hstep
  exact runPhases_refused _ _ _ rfl hstep

/-- The loop is refused at the level `i` that takes the stores above a bounded `STORE_BYTES`. -/
theorem runPhases_building_storeBound {f : PixelFormat} {s : State} {i : Nat} (hl : s.input.length < 2 ^ 64)
    (hm : ¬ exceeds s.params.maxMipLevels (declaredLevels s) = true) (hi : i < declaredLevels s)
    (hlen : 128 + levelBytes s.params s.input f i ≤ s.input.length)
    (hb : ¬ exceeds s.params.storeBytes (levelBytes s.params s.input f i) = true)
    (hb' : exceeds s.params.storeBytes (levelBytes s.params s.input f (i + 1)) = true) :
    runPhases (declaredLevels s + 1) (building f s 0 128 []) = .refused .storeBound := by
  obtain ⟨acc, hacc, hrun⟩ := runPhases_building_to f s hl hm i hi.le hlen hb
  have hstep := phaseStep_building f s i (128 + levelBytes s.params s.input f i) acc hi hacc
  rw [if_neg hm, if_pos hb'] at hstep
  rw [show declaredLevels s + 1 = i + ((declaredLevels s - i) + 1) by omega, hrun]
  exact runPhases_refused _ _ _ rfl hstep

/-- Settles O58: the call comes to the loop of BUILD_MIP, and the loop to the level that exceeds the bound. -/
theorem capacityStops : Obligations.CapacityStops := by
  refine ⟨fun c s hc hl => ?_, fun s f hl hmagic h128 hsize htag hflags hf => ⟨fun b hbound hlt => ?_,
    fun b i hcount hbound hi hlen hle hlt => ?_⟩⟩
  · rw [exec_decodeCall c s hc, decodeCall_of_long _ hl]
  · rw [exec_parse_of_classified hl hmagic h128 hsize htag hflags hf]
    exact runPhases_building_levelTableBound f ((exceeds_iff _ _).mpr ⟨b, hbound, hlt⟩) (Nat.zero_lt_of_lt hlt)
  · rw [exec_parse_of_classified hl hmagic h128 hsize htag hflags hf]
    refine runPhases_building_storeBound hl ?_ hi hlen ?_ ((exceeds_iff _ _).mpr ⟨b, hbound, hlt⟩)
    · rw [exceeds_iff]
      rintro ⟨c, hc, hover⟩
      exact absurd (hcount c hc) (not_le.mpr hover)
    · rw [exceeds_iff]
      rintro ⟨c, hc, hover⟩
      obtain rfl : b = c := Option.some.inj (hbound.symm.trans hc)
      omega

end Sys2Proof.Machine
end

section
/-! SUPPORT. The decoder and the encoder (30_encoding.md R83, R84, R86): what a word decodes to, said once by its
fields; the statements on the command words are read off it. -/

namespace Sys2Proof

/-! ### Words and fields (R83) -/

/-- A command word is its three fields. -/
@[simp] theorem commandWord_commandFields (w : Byte) : commandWord (commandFields w) = w := by
  have hhigh : w.extractLsb' 7 1 ++ w.extractLsb' 4 3 = w.extractLsb' 4 4 :=
    BitVec.extractLsb'_append_extractLsb'_eq_extractLsb' rfl
  have hall : w.extractLsb' 4 4 ++ w.extractLsb' 0 4 = w.extractLsb' 0 8 :=
    BitVec.extractLsb'_append_extractLsb'_eq_extractLsb' rfl
  simp only [commandWord, commandFields, hhigh, hall, BitVec.extractLsb'_eq_self]

/-- The fields of every command pass the acceptance test, and its word carries them. -/
theorem Laws.LegalWord.all (i : Instr) : Laws.LegalWord.Statement i := by
  cases i with
  | parse => exact parse
  | probe => exact probe
  | atPixel => exact atPixel
  | setPixel => exact setPixel
  | unpackBgra8888 => exact unpackBgra8888
  | unpackBgr565 => exact unpackBgr565
  | unpackBgra5551 => exact unpackBgra5551
  | unpackBgra4444 => exact unpackBgra4444
  | unpackRgb565 => exact unpackRgb565
  | packBgra8888 => exact packBgra8888
  | packBgr565 => exact packBgr565
  | packBgra5551 => exact packBgra5551
  | packBgra4444 => exact packBgra4444
  | packRgb565 => exact packRgb565
  | blkpixDxt1 => exact blkpixDxt1
  | blkpixDxt3 => exact blkpixDxt3
  | blkpixDxt5 => exact blkpixDxt5

/-! ### The acceptance test (R84) -/

/-- The pairs of an operation and a format that R84 accepts. -/
def legalOperation (op fmt : Nat) : Prop :=
  (1 ≤ op ∧ op ≤ 4 ∧ fmt = 0) ∨ (5 ≤ op ∧ op ≤ 6 ∧ fmt ≤ 4) ∨ (op = 7 ∧ 5 ≤ fmt ∧ fmt ≤ 7)

/-- The acceptance test in the numbers of the fields. -/
theorem wellFormed_iff (c : CommandFields) :
    c.wellFormed = true ↔ c.z = 0 ∧ legalOperation c.op.toNat c.fmt.toNat := by
  have hfmt : c.fmt.toNat < 8 := c.fmt.isLt
  simp only [CommandFields.wellFormed, legalOperation, Bool.and_eq_true, Bool.or_eq_true, beq_iff_eq, decide_eq_true_eq,
    ← BitVec.toNat_inj, BitVec.ofNat_eq_ofNat, BitVec.toNat_ofNat]
  omega

/-- The six kinds of R86 are what the acceptance test rejects. -/
theorem illegalWord_iff (w : Byte) : Machine.illegalWord w = true ↔ ¬ (commandFields w).wellFormed = true := by
  have hz : (w.extractLsb' 7 1).toNat < 2 := (w.extractLsb' 7 1).isLt
  have hfmt : (w.extractLsb' 4 3).toNat < 8 := (w.extractLsb' 4 3).isLt
  have hop : (w.extractLsb' 0 4).toNat < 16 := (w.extractLsb' 0 4).isLt
  rw [wellFormed_iff]
  simp only [Machine.illegalWord, legalOperation, commandFields, Bool.and_eq_true, Bool.or_eq_true, beq_iff_eq,
    bne_iff_ne, decide_eq_true_eq, ← BitVec.toNat_inj, BitVec.ofNat_eq_ofNat, BitVec.toNat_ofNat]
  omega

/-! ### The decoder -/

/-- What R84 and R86 make of an operation and a format: the command whose fields they are, or nothing where the pair is
not accepted. -/
inductive DecodedOperation (op fmt : Nat) : Except IllegalCommand Instr → Prop
  | ok {i} : instrFields i = ⟨0, BitVec.ofNat 3 fmt, BitVec.ofNat 4 op⟩ → DecodedOperation op fmt (.ok i)
  | error {k} : ¬ legalOperation op fmt → DecodedOperation op fmt (.error k)

/-- A command without a format field decodes at `fmt = 0` alone. -/
theorem plainCommand_decoded {i : Instr} {op : Nat} (hop : op ≤ 4) (hi : instrFields i = ⟨0, 0, BitVec.ofNat 4 op⟩)
    (fmt : Nat) : DecodedOperation op fmt (plainCommand i fmt) := by
  unfold plainCommand
  split
  case isTrue hfmt =>
    subst hfmt
    exact .ok hi
  case isFalse hfmt => exact .error (by unfold legalOperation; omega)

/-- UNPACK decodes at the packed formats alone. -/
theorem unpackCommand_decoded (fmt : Nat) : DecodedOperation 5 fmt (unpackCommand fmt) := by
  match fmt with
  | 0 | 1 | 2 | 3 | 4 => exact .ok rfl
  | n + 5 => exact .error (by unfold legalOperation; omega)

/-- PACK decodes at the packed formats alone. -/
theorem packCommand_decoded (fmt : Nat) : DecodedOperation 6 fmt (packCommand fmt) := by
  match fmt with
  | 0 | 1 | 2 | 3 | 4 => exact .ok rfl
  | n + 5 => exact .error (by unfold legalOperation; omega)

/-- BLKPIX decodes at the block formats alone. -/
theorem blkpixCommand_decoded (fmt : Nat) : DecodedOperation 7 fmt (blkpixCommand fmt) := by
  match fmt with
  | 5 | 6 | 7 => exact .ok rfl
  | 0 | 1 | 2 | 3 | 4 | n + 8 => exact .error (by unfold legalOperation; omega)

/-- The operation selects by R84's table. -/
theorem operationCommand_decoded (op fmt : Nat) : DecodedOperation op fmt (operationCommand op fmt) := by
  match op with
  | 1 | 2 | 3 | 4 => exact plainCommand_decoded (by omega) rfl fmt
  | 5 => exact unpackCommand_decoded fmt
  | 6 => exact packCommand_decoded fmt
  | 7 => exact blkpixCommand_decoded fmt
  | 0 | n + 8 => exact .error (by unfold legalOperation; omega)

/-- All a word can decode to: the command whose fields it holds, or nothing where the acceptance test rejects it. -/
theorem decodeCommand_cases (w : Byte) :
    (∃ i, decodeCommand w = .ok i ∧ instrFields i = commandFields w) ∨
      ∃ k, decodeCommand w = .error k ∧ ¬ (commandFields w).wellFormed = true := by
  simp only [decodeCommand, wellFormed_iff]
  obtain ⟨z, fmt, op⟩ := commandFields w
  by_cases hz : z = 1
  · exact .inr ⟨_, if_pos hz, by simp [hz]⟩
  · obtain rfl : z = 0 := (BitVec.eq_zero_or_eq_one z).resolve_right hz
    rw [if_neg hz]
    have hd := operationCommand_decoded op.toNat fmt.toNat
    generalize operationCommand op.toNat fmt.toNat = d at hd ⊢
    cases hd with
    | ok hi => exact .inl ⟨_, rfl, by simpa using hi⟩
    | error hk => exact .inr ⟨_, rfl, fun h => hk h.2⟩

/-- What a word decodes to encodes to that word: no bit of it is dropped. -/
theorem encode_of_decodeCommand {w : Byte} {i : Instr} (h : decodeCommand w = .ok i) : encode i = w := by
  rcases decodeCommand_cases w with ⟨j, hj, hfields⟩ | ⟨k, hk, -⟩
  · obtain rfl : j = i := Except.ok.inj (hj.symm.trans h)
    rw [encode, hfields, commandWord_commandFields]
  · rw [hk] at h
    cases h

/-- The decoder reads every command back from its word. -/
@[simp] theorem decodeCommand_encode (i : Instr) : decodeCommand (encode i) = .ok i := by
  cases i <;> rfl

/-- Settles O2: the word of a command decodes to it, and what decodes to it is its word. -/
theorem decodeInvertsEncode : Obligations.DecodeInvertsEncode := by
  intro i w
  constructor
  · exact fun h => (encode_of_decodeCommand h).symm
  · rintro rfl
    exact decodeCommand_encode i

/-- The decoder accepts what the acceptance test accepts. -/
theorem exists_decodeCommand_ok_iff (w : Byte) :
    (∃ i, decodeCommand w = .ok i) ↔ (commandFields w).wellFormed = true := by
  constructor
  · rintro ⟨i, hi⟩
    obtain ⟨hwf, hfields⟩ := Laws.LegalWord.all i
    rw [← encode_of_decodeCommand hi, hfields]
    exact hwf
  · intro hwf
    rcases decodeCommand_cases w with ⟨i, hi, -⟩ | ⟨k, -, hk⟩
    · exact ⟨i, hi⟩
    · exact absurd hwf hk

/-- The decoder rejects the words of the six kinds of R86. -/
theorem exists_decodeCommand_error_iff (w : Byte) :
    (∃ k, decodeCommand w = .error k) ↔ Machine.illegalWord w = true := by
  rw [illegalWord_iff, ← exists_decodeCommand_ok_iff]
  cases decodeCommand w <;> simp

/-- Settles O1: seventeen runs of the decoder; a word that decodes is the word of one of the seventeen commands. -/
theorem legalCommandWords : Obligations.LegalCommandWords := by
  refine ⟨rfl, rfl, rfl, rfl, rfl, rfl, rfl, rfl, rfl, rfl, rfl, rfl, rfl, rfl, rfl, rfl, rfl, fun w i h => ?_,
    exists_decodeCommand_ok_iff⟩
  rw [← encode_of_decodeCommand h]
  cases i <;> decide

end Sys2Proof

namespace Sys2Proof.Machine

/-! ### An illegal word is refused (R86, 60_exceptions.md R240) -/

/-- A step that writes an illegal word to `CMD` sets `CMDERR` alone. -/
theorem step_of_illegalWord {s : State} {v : Int} {rest : List HostAction} (hs : s.script = .wr 0x00 v :: rest)
    (hw : illegalWord (BitVec.ofInt 8 v) = true) : step s = .next { s with script := rest, cmdErr := true } := by
  obtain ⟨k, hk⟩ := (exists_decodeCommand_error_iff _).mpr hw
  have hfetch : fetch s = .command (BitVec.ofInt 8 v) { s with script := rest } := by
    rw [fetch, hs]
    rfl
  simp only [step, hfetch, hk]
  rfl

/-- Settles O3: the decoder rejects the six kinds; their number is a count over the 256 words. -/
theorem illegalWordsRefused : Obligations.IllegalWordsRefused :=
  ⟨exists_decodeCommand_error_iff, by decide +kernel, fun _ _ _ => step_of_illegalWord⟩

end Sys2Proof.Machine
end

section
/-! SUPPORT. The frame of every command (30_encoding.md R85): the registers of its row, for SET one unit of a store, or
`CMDERR` alone. -/

namespace Sys2Proof.Machine

/-- The loop of BUILD_MIP writes only the registers of a decode call. -/
theorem LevelsEnd.writesOnlyRow {f : PixelFormat} {s t : State} {r : CallResult} (h : LevelsEnd f s r t) :
    writesOnlyRow .parse s t := by
  cases r with
  | failed e pos =>
    obtain ⟨-, -, j, -, -, -, rfl⟩ := h
    rfl
  | probed w h' depth pos => exact h.elim
  | parsed g levels pos =>
    obtain ⟨-, -, -, -, rfl⟩ := h
    rfl

/-- However a decode call ends, it writes only the registers of its row. -/
theorem CallEnd.writesOnlyRow {b : Bool} {s t : State} (h : CallEnd b s t) : writesOnlyRow .parse s t := by
  cases h with
  | magic | header | ext | flags | probed | format => rfl
  | levels f _ _ _ _ _ _ _ _ hend => exact hend.writesOnlyRow

/-- AT writes the result registers, or it is refused. -/
theorem execAt_writesOnlyRow {s t : State} (h : execAt s = .next t) : writesOnlyRow .atPixel s t := by
  rcases execAt_cases s with ⟨-, he⟩ | ⟨m, -, -, he⟩ | ⟨m, k, -, -, -, he⟩ | ⟨m, -, -, -, he⟩ <;>
    rw [he] at h <;> cases h
  · exact .inr rfl
  · exact .inl rfl
  · exact .inl rfl

/-- SET of a pixel of the selected level writes one unit of its store (42_pixel_buffer.md R167, R175). -/
theorem writesOneUnit_setSelected {s : State} {m m' : Level} {f : PackedFormat} {v : Sample} (hm : s.selected = some m)
    (hf : m.fmt = .packed f) (hset : levelSet s.params m f s.x s.y v = some m') :
    writesOneUnit s (s.setSelected m') := by
  obtain ⟨heq, houtside⟩ := levelSet_some hset
  refine ⟨m, m'.store, hm, ?_, ?_⟩
  · rw [← heq]
    rfl
  · rw [hf]
    exact houtside

/-- SET writes one unit of the selected level's store or nothing, or it is refused. -/
theorem execSet_writesOnlyRow {s t : State} (h : execSet s = .next t) : writesOnlyRow .setPixel s t := by
  unfold execSet at h
  split at h
  case h_1 => cases h; exact .inr (.inr rfl)
  case h_2 m hm =>
    split at h
    case h_1 => cases h; exact .inr (.inr rfl)
    case h_2 f hf =>
      rcases setPacked_cases m f s with ⟨-, he⟩ | ⟨m', -, hset, he⟩ | ⟨-, -, he⟩ <;> rw [he] at h <;> cases h
      · exact .inl rfl
      · exact .inr (.inl (writesOneUnit_setSelected hm hf hset))

/-- BLKPIX writes the result registers, or it is refused. -/
theorem blkpixCommandOf_writesOnlyRow {f : BlockFormat} {s t : State} (h : blkpixCommandOf f s = .next t) :
    writesOnlyRow .blkpixDxt1 s t := by
  unfold blkpixCommandOf at h
  split at h <;> cases h
  · exact .inl rfl
  · exact .inr rfl

/-- Settles O54: command by command; the two decode calls and the three BLKPIX share a row. -/
theorem commandsWriteOnlyTheirRow : Obligations.CommandsWriteOnlyTheirRow := by
  intro i s t h
  cases i with
  | parse | probe => exact (exec_decodeCall_next _ s t rfl h).2.writesOnlyRow
  | atPixel => exact execAt_writesOnlyRow h
  | setPixel => exact execSet_writesOnlyRow h
  | unpackBgra8888 | unpackBgr565 | unpackBgra5551 | unpackBgra4444 | unpackRgb565 => cases h; rfl
  | packBgra8888 | packBgr565 | packBgra5551 | packBgra4444 | packRgb565 => cases h; rfl
  | blkpixDxt1 | blkpixDxt3 | blkpixDxt5 => exact blkpixCommandOf_writesOnlyRow h

end Sys2Proof.Machine
end

section
/-! SUPPORT. Expansion and reduction (40_packed_codec.md R101, R110): the bits of an expanded and of a reduced channel,
for every width up to 16, and the number an expanded field is. -/

namespace Sys2Proof.Machine

/-- The widths of a field in the five packed formats. -/
theorem fieldWidth_bounds {w : Nat} (h : w ∈ [1, 4, 5, 6, 8]) : 0 < w ∧ w ≤ 16 := by
  simp only [List.mem_cons, List.not_mem_nil, or_false] at h
  omega

theorem getLsbD_placed (w : Nat) (f : BitVec w) (k : Nat) :
    (placed w f).getLsbD k = (decide (k < 16) && decide (16 - w ≤ k) && f.getLsbD (k - (16 - w))) := by
  grind [placed, BitVec.getLsbD_setWidth]

/-- A bit of the first `n` shifts is set where one of them sets it. -/
theorem getLsbD_orShifts (w : Nat) (F : Channel) (n k : Nat) :
    (orShifts w F n).getLsbD k = true ↔ ∃ j < n, F.getLsbD (j * w + k) = true := by
  induction n with
  | zero => simp [orShifts]
  | succ n ih =>
    simp only [orShifts, BitVec.getLsbD_or, BitVec.getLsbD_ushiftRight, Bool.or_eq_true, ih, Nat.exists_lt_succ_right]

/-- R101 for every width: of the copies of the field, the one that covers bit `15 - i` is number `i / w`. -/
theorem getLsbD_expand {w i : Nat} (hw : 0 < w) (hw' : w ≤ 16) (f : BitVec w) (hi : i < 16) :
    (expand w f).getLsbD (15 - i) = f.getLsbD (w - 1 - i % w) := by
  have hdiv : i / w * w + i % w = i := Nat.div_add_mod' i w
  have hmod : i % w < w := Nat.mod_lt i hw
  rw [Bool.eq_iff_iff, expand, getLsbD_orShifts]
  simp only [getLsbD_placed, Bool.and_eq_true, decide_eq_true_eq]
  constructor
  · rintro ⟨j, -, ⟨hlt, hle⟩, hbit⟩
    have hj : i / w = j := (Nat.div_eq_iff hw).mpr (by omega)
    subst hj
    convert hbit using 2
    omega
  · intro hbit
    refine ⟨i / w, (Nat.div_le_self i w).trans_lt hi, ⟨by omega, by omega⟩, ?_⟩
    convert hbit using 2
    omega

theorem getLsbD_reduce (w : Nat) (c : Channel) (k : Nat) :
    (reduce w c).getLsbD k = (decide (k < w) && c.getLsbD (16 - w + k)) := by
  simp [reduce]

/-- The first copy of the field is the field. -/
theorem reduce_expand {w : Nat} (hw : 0 < w) (hw' : w ≤ 16) (f : BitVec w) : reduce w (expand w f) = f := by
  refine BitVec.eq_of_getLsbD_eq fun k hk => ?_
  have hbit := getLsbD_expand hw hw' f (i := w - 1 - k) (by omega)
  rw [Nat.mod_eq_of_lt (by omega)] at hbit
  rw [getLsbD_reduce, decide_eq_true hk, Bool.true_and]
  convert hbit using 2 <;> omega

theorem toNat_reduce {w : Nat} (hw : w ≤ 16) (c : Channel) : (reduce w c).toNat = c.toNat >>> (16 - w) := by
  have hc : c.toNat >>> (16 - w) < 2 ^ w := by
    rw [Nat.shiftRight_eq_div_pow, Nat.div_lt_iff_lt_mul (by positivity), ← pow_add, Nat.add_sub_cancel' hw]
    exact c.isLt
  rw [reduce, BitVec.toNat_setWidth, BitVec.toNat_ushiftRight, Nat.mod_eq_of_lt hc]

theorem toNat_expand_shiftRight {w : Nat} (hw : 0 < w) (hw' : w ≤ 16) (f : BitVec w) :
    (expand w f).toNat >>> (16 - w) = f.toNat := by
  rw [← toNat_reduce hw', reduce_expand hw hw']

/-- A larger field has larger top bits, so a larger expansion. -/
theorem toNat_expand_lt {w : Nat} (hw : 0 < w) (hw' : w ≤ 16) {f g : BitVec w} (h : f.toNat < g.toNat) :
    (expand w f).toNat < (expand w g).toNat := by
  by_contra hle
  have htop : (expand w g).toNat >>> (16 - w) ≤ (expand w f).toNat >>> (16 - w) := by
    simpa only [Nat.shiftRight_eq_div_pow] using Nat.div_le_div_right (Nat.le_of_not_lt hle)
  rw [toNat_expand_shiftRight hw hw', toNat_expand_shiftRight hw hw'] at htop
  omega

/-- A channel is its bits counted from the top. -/
theorem channel_ext {c d : Channel} (h : ∀ i < 16, c.getLsbD (15 - i) = d.getLsbD (15 - i)) : c = d :=
  BitVec.eq_of_getLsbD_eq fun k hk => by simpa [show 15 - (15 - k) = k by omega] using h (15 - k) (by omega)

theorem expand_zero {w : Nat} (hw : 0 < w) (hw' : w ≤ 16) : expand w (0 : BitVec w) = 0x0000 :=
  channel_ext fun i hi => by simp [getLsbD_expand hw hw' _ hi]

theorem expand_allOnes {w : Nat} (hw : 0 < w) (hw' : w ≤ 16) : expand w (BitVec.allOnes w) = 0xFFFF :=
  channel_ext fun i hi => by
    change _ = (BitVec.allOnes 16).getLsbD (15 - i)
    have hfield : w - 1 - i % w < w := by omega
    have hchannel : 15 - i < 16 := by omega
    simp only [getLsbD_expand hw hw' _ hi, BitVec.getLsbD_allOnes, hfield, hchannel]

/-- The 8-bit field is copied twice. -/
theorem expand_8_eq_append (f : BitVec 8) : expand 8 f = f ++ f :=
  channel_ext fun i hi => by
    rw [getLsbD_expand (by decide) (by decide) f hi, BitVec.getLsbD_append]
    split <;> congr 1 <;> omega

theorem toNat_expand_8 (f : BitVec 8) : (expand 8 f).toNat = f.toNat * 0x0101 := by
  rw [expand_8_eq_append, BitVec.toNat_append, ← Nat.shiftLeft_add_eq_or_of_lt f.isLt, Nat.shiftLeft_eq]
  omega

theorem toNat_expand_4 : ∀ f : BitVec 4, (expand 4 f).toNat = f.toNat * 0x1111 := by decide

/-- Settles O12: every width of a field is at least 1 and at most 16. -/
theorem expandReplicatesField : Obligations.ExpandReplicatesField := by
  intro w hw f i hi
  obtain ⟨hpos, hle⟩ := fieldWidth_bounds hw
  exact getLsbD_expand hpos hle f hi

/-- R103 for the widths 4, 5 and 8: expansion is the linear rescale, rounded to the nearest. -/
theorem toNat_expand_eq_rescale {w : Nat} (hw : w ∈ [4, 5, 8]) (f : BitVec w) :
    (expand w f).toNat = (2 * f.toNat * 65535 + (2 ^ w - 1)) / (2 * (2 ^ w - 1)) := by
  simp only [List.mem_cons, List.not_mem_nil, or_false] at hw
  obtain rfl | rfl | rfl := hw
  · rw [toNat_expand_4]; omega
  · revert f; decide
  · rw [toNat_expand_8]; omega

/-- Settles O13: the properties are those of every width up to 16; the shift forms and the values of the 6-bit
expansion are checked over the 64 fields at most. -/
theorem expandClosedForms : Obligations.ExpandClosedForms := by
  refine ⟨toNat_expand_8, by decide, by decide, toNat_expand_4, by decide, fun w hw => ?_,
    fun w hw f => toNat_expand_eq_rescale hw f, by decide, by decide⟩
  obtain ⟨hpos, hle⟩ := fieldWidth_bounds hw
  exact ⟨expand_zero hpos hle, expand_allOnes hpos hle, toNat_expand_shiftRight hpos hle,
    fun f g => toNat_expand_lt hpos hle⟩

end Sys2Proof.Machine
end

section
/-! SUPPORT. UNPACK and PACK (40_packed_codec.md R104 to R119): the fields of a packed unit, and that packing inverts
unpacking. -/

namespace Sys2Proof.Machine

/-! ### UNPACK -/

/-- The expansion of a field of the unit widens it. -/
theorem widensField_expand {w hi : Nat} (lo : Nat) (u : Word) (hpos : 0 < w := by decide) (hle : w ≤ 16 := by decide)
    (hhi : hi + 1 = lo + w := by decide) : widensField w hi u (expand w (u.extractLsb' lo w)) := by
  intro i hi
  have hmod : i % w < w := Nat.mod_lt i hpos
  have hfield : w - 1 - i % w < w := by omega
  rw [getLsbD_expand hpos hle _ hi, BitVec.getLsbD_extractLsb', decide_eq_true hfield, Bool.true_and]
  congr 1
  omega

theorem unpackSampleBgr565_widens (u : Word) :
    widensField 5 15 u (unpackSampleBgr565 u).r ∧ widensField 6 10 u (unpackSampleBgr565 u).g ∧
      widensField 5 4 u (unpackSampleBgr565 u).b ∧ (unpackSampleBgr565 u).a = 0xFFFF :=
  ⟨widensField_expand 11 u, widensField_expand 5 u, widensField_expand 0 u, rfl⟩

/-- The sample with its red and blue channels exchanged: what `RGB565_LAYOUT = R_LOW` does to R_HIGH (R108, R116). -/
def Sample.swapRB (x : Sample) : Sample := ⟨x.b, x.g, x.r, x.a⟩

theorem unpackSampleRgb565_rHigh {p : Params} (h : p.rgb565Layout = .rHigh) (u : Word) :
    unpackSampleRgb565 p u = unpackSampleBgr565 u := by
  rw [unpackSampleRgb565, h]
  rfl

theorem unpackSampleRgb565_rLow {p : Params} (h : p.rgb565Layout = .rLow) (u : Word) :
    unpackSampleRgb565 p u = (unpackSampleBgr565 u).swapRB := by
  rw [unpackSampleRgb565, h]
  rfl

/-- Settles O14: each channel expands its byte of the unit. -/
theorem unpackBgra8888Result : Obligations.UnpackBgra8888Result := fun s =>
  ⟨unpackSampleBgra8888 s.unit, rfl, widensField_expand 0 s.unit, widensField_expand 8 s.unit,
    widensField_expand 16 s.unit, widensField_expand 24 s.unit⟩

/-- Settles O15. The alpha is opaque. -/
theorem unpackBgr565Result : Obligations.UnpackBgr565Result := fun s =>
  ⟨unpackSampleBgr565 s.unit, rfl, unpackSampleBgr565_widens s.unit⟩

/-- Settles O16: each channel expands its field, the alpha its one bit. -/
theorem unpackBgra5551Result : Obligations.UnpackBgra5551Result := fun s =>
  ⟨unpackSampleBgra5551 s.unit, rfl, widensField_expand 10 s.unit, widensField_expand 5 s.unit,
    widensField_expand 0 s.unit, widensField_expand 15 s.unit⟩

/-- Settles O17: each channel expands its nibble of the unit. -/
theorem unpackBgra4444Result : Obligations.UnpackBgra4444Result := fun s =>
  ⟨unpackSampleBgra4444 s.unit, rfl, widensField_expand 8 s.unit, widensField_expand 4 s.unit,
    widensField_expand 0 s.unit, widensField_expand 12 s.unit⟩

/-- Settles O18: R_HIGH decodes as BGR565, R_LOW with red and blue exchanged. -/
theorem unpackRgb565Result : Obligations.UnpackRgb565Result := by
  intro s
  obtain ⟨h15, h10, h4, ha⟩ := unpackSampleBgr565_widens s.unit
  refine ⟨unpackSampleRgb565 s.params s.unit, rfl, ?_⟩
  cases h : s.params.rgb565Layout with
  | rHigh =>
    rw [unpackSampleRgb565_rHigh h]
    exact ⟨fun _ => ⟨h15, h4⟩, nofun, h10, ha⟩
  | rLow =>
    rw [unpackSampleRgb565_rLow h]
    exact ⟨nofun, fun _ => ⟨h4, h15⟩, h10, ha⟩

/-! ### PACK -/

/-- A field of the unit that is the reduced channel holds its top bits. -/
theorem holdsReduced_of_field {w lo hi : Nat} {u : Word} {c : Channel} (h : u.extractLsb' lo w = reduce w c)
    (hle : w ≤ 16 := by decide) (hhi : hi + 1 = lo + w := by decide) : holdsReduced w hi c u := by
  intro i hi
  have hbit := congrArg (BitVec.getLsbD · (w - 1 - i)) h
  have hfield : w - 1 - i < w := by omega
  simp only [BitVec.getLsbD_extractLsb', getLsbD_reduce, decide_eq_true hfield, Bool.true_and] at hbit
  convert hbit using 2 <;> omega

/-- The bits of a packed unit, below 32, are those of the unit before it was widened. -/
theorem extractLsb'_zext32 {w lo n : Nat} (h : lo + n ≤ 32) (u : BitVec w) :
    (zext32 u).extractLsb' lo n = u.extractLsb' lo n :=
  BitVec.extractLsb'_setWidth_of_le h

theorem zext32_upper (u : BitVec 16) : (zext32 u).extractLsb' 16 16 = 0 := by
  refine BitVec.eq_of_getLsbD_eq fun k _ => ?_
  simp [extractLsb'_zext32, BitVec.getLsbD_extractLsb', BitVec.getLsbD_of_ge]

theorem packUnitBgra8888_fields (x : Sample) :
    (packUnitBgra8888 x).extractLsb' 0 8 = reduce 8 x.b ∧ (packUnitBgra8888 x).extractLsb' 8 8 = reduce 8 x.g ∧
      (packUnitBgra8888 x).extractLsb' 16 8 = reduce 8 x.r ∧
      (packUnitBgra8888 x).extractLsb' 24 8 = reduce 8 x.a := by
  simp (disch := decide) only [packUnitBgra8888, extractLsb'_zext32, BitVec.extractLsb'_append_eq_of_le,
    BitVec.extractLsb'_append_eq_of_add_le, BitVec.extractLsb'_eq_self, Nat.reduceSub, and_self]

theorem packUnitBgr565_fields (x : Sample) :
    (packUnitBgr565 x).extractLsb' 11 5 = reduce 5 x.r ∧ (packUnitBgr565 x).extractLsb' 5 6 = reduce 6 x.g ∧
      (packUnitBgr565 x).extractLsb' 0 5 = reduce 5 x.b := by
  simp (disch := decide) only [packUnitBgr565, extractLsb'_zext32, BitVec.extractLsb'_append_eq_of_le,
    BitVec.extractLsb'_append_eq_of_add_le, BitVec.extractLsb'_eq_self, Nat.reduceSub, and_self]

theorem packUnitBgra5551_fields (x : Sample) :
    (packUnitBgra5551 x).extractLsb' 15 1 = reduce 1 x.a ∧ (packUnitBgra5551 x).extractLsb' 10 5 = reduce 5 x.r ∧
      (packUnitBgra5551 x).extractLsb' 5 5 = reduce 5 x.g ∧ (packUnitBgra5551 x).extractLsb' 0 5 = reduce 5 x.b := by
  simp (disch := decide) only [packUnitBgra5551, extractLsb'_zext32, BitVec.extractLsb'_append_eq_of_le,
    BitVec.extractLsb'_append_eq_of_add_le, BitVec.extractLsb'_eq_self, Nat.reduceSub, and_self]

theorem packUnitBgra4444_fields (x : Sample) :
    (packUnitBgra4444 x).extractLsb' 12 4 = reduce 4 x.a ∧ (packUnitBgra4444 x).extractLsb' 8 4 = reduce 4 x.r ∧
      (packUnitBgra4444 x).extractLsb' 4 4 = reduce 4 x.g ∧ (packUnitBgra4444 x).extractLsb' 0 4 = reduce 4 x.b := by
  simp (disch := decide) only [packUnitBgra4444, extractLsb'_zext32, BitVec.extractLsb'_append_eq_of_le,
    BitVec.extractLsb'_append_eq_of_add_le, BitVec.extractLsb'_eq_self, Nat.reduceSub, and_self]

theorem packUnitRgb565_rHigh {p : Params} (h : p.rgb565Layout = .rHigh) (x : Sample) :
    packUnitRgb565 p x = packUnitBgr565 x := by
  rw [packUnitRgb565, h]
  rfl

theorem packUnitRgb565_rLow {p : Params} (h : p.rgb565Layout = .rLow) (x : Sample) :
    packUnitRgb565 p x = packUnitBgr565 x.swapRB := by
  rw [packUnitRgb565, h]
  rfl

theorem packUnitBgr565_holds (x : Sample) :
    holdsReduced 5 15 x.r (packUnitBgr565 x) ∧ holdsReduced 6 10 x.g (packUnitBgr565 x) ∧
      holdsReduced 5 4 x.b (packUnitBgr565 x) ∧ (packUnitBgr565 x).extractLsb' 16 16 = 0 := by
  obtain ⟨hr, hg, hb⟩ := packUnitBgr565_fields x
  exact ⟨holdsReduced_of_field hr, holdsReduced_of_field hg, holdsReduced_of_field hb, zext32_upper _⟩

/-- Settles O19: the four bytes of the unit are the reduced channels. -/
theorem packBgra8888Result : Obligations.PackBgra8888Result := by
  intro s
  obtain ⟨hb, hg, hr, ha⟩ := packUnitBgra8888_fields s.arg
  exact ⟨_, rfl, holdsReduced_of_field hb, holdsReduced_of_field hg, holdsReduced_of_field hr,
    holdsReduced_of_field ha⟩

/-- Settles O20. The alpha is ignored. -/
theorem packBgr565Result : Obligations.PackBgr565Result := fun s =>
  ⟨packUnitBgr565 s.arg, rfl, packUnitBgr565_holds s.arg⟩

/-- Settles O21: the fields are the reduced channels, below a zero upper half. -/
theorem packBgra5551Result : Obligations.PackBgra5551Result := by
  intro s
  obtain ⟨ha, hr, hg, hb⟩ := packUnitBgra5551_fields s.arg
  exact ⟨_, rfl, holdsReduced_of_field ha, holdsReduced_of_field hr, holdsReduced_of_field hg,
    holdsReduced_of_field hb, zext32_upper _⟩

/-- Settles O22: the nibbles are the reduced channels, below a zero upper half. -/
theorem packBgra4444Result : Obligations.PackBgra4444Result := by
  intro s
  obtain ⟨ha, hr, hg, hb⟩ := packUnitBgra4444_fields s.arg
  exact ⟨_, rfl, holdsReduced_of_field ha, holdsReduced_of_field hr, holdsReduced_of_field hg,
    holdsReduced_of_field hb, zext32_upper _⟩

/-- Settles O23: R_HIGH encodes as BGR565, R_LOW with red and blue exchanged. -/
theorem packRgb565Result : Obligations.PackRgb565Result := by
  intro s
  refine ⟨packUnitRgb565 s.params s.arg, rfl, ?_⟩
  cases h : s.params.rgb565Layout with
  | rHigh =>
    obtain ⟨hr, hg, hb, hupper⟩ := packUnitBgr565_holds s.arg
    rw [packUnitRgb565_rHigh h]
    exact ⟨fun _ => ⟨hr, hb⟩, nofun, hg, hupper⟩
  | rLow =>
    obtain ⟨hr, hg, hb, hupper⟩ := packUnitBgr565_holds s.arg.swapRB
    rw [packUnitRgb565_rLow h]
    exact ⟨nofun, fun _ => ⟨hr, hb⟩, hg, hupper⟩

/-! ### UNPACK after PACK (R117) -/

theorem unpackSampleBgra8888_packUnit (v : Sample) : unpackSampleBgra8888 (packUnitBgra8888 v) =
    ⟨expand 8 (reduce 8 v.r), expand 8 (reduce 8 v.g), expand 8 (reduce 8 v.b), expand 8 (reduce 8 v.a)⟩ := by
  simp only [unpackSampleBgra8888, packUnitBgra8888_fields]

theorem unpackSampleBgr565_packUnit (v : Sample) : unpackSampleBgr565 (packUnitBgr565 v) =
    ⟨expand 5 (reduce 5 v.r), expand 6 (reduce 6 v.g), expand 5 (reduce 5 v.b), 0xFFFF⟩ := by
  simp only [unpackSampleBgr565, packUnitBgr565_fields]

theorem unpackSampleBgra5551_packUnit (v : Sample) : unpackSampleBgra5551 (packUnitBgra5551 v) =
    ⟨expand 5 (reduce 5 v.r), expand 5 (reduce 5 v.g), expand 5 (reduce 5 v.b), expand 1 (reduce 1 v.a)⟩ := by
  simp only [unpackSampleBgra5551, packUnitBgra5551_fields]

theorem unpackSampleBgra4444_packUnit (v : Sample) : unpackSampleBgra4444 (packUnitBgra4444 v) =
    ⟨expand 4 (reduce 4 v.r), expand 4 (reduce 4 v.g), expand 4 (reduce 4 v.b), expand 4 (reduce 4 v.a)⟩ := by
  simp only [unpackSampleBgra4444, packUnitBgra4444_fields]

/-- Under R_LOW the exchange on the way in undoes the one on the way out. -/
theorem unpackSampleRgb565_packUnit (p : Params) (v : Sample) : unpackSampleRgb565 p (packUnitRgb565 p v) =
    ⟨expand 5 (reduce 5 v.r), expand 6 (reduce 6 v.g), expand 5 (reduce 5 v.b), 0xFFFF⟩ := by
  cases h : p.rgb565Layout with
  | rHigh => rw [packUnitRgb565_rHigh h, unpackSampleRgb565_rHigh h, unpackSampleBgr565_packUnit]
  | rLow =>
    rw [packUnitRgb565_rLow h, unpackSampleRgb565_rLow h, unpackSampleBgr565_packUnit]
    rfl

/-! ### PACK after UNPACK (R117) -/

/-- The fields of a 16-bit format cover the unit's lower half. -/
theorem zext32_extractLsb'_of_lt {u : Word} (h : u.toNat < 2 ^ 16) : zext32 (u.extractLsb' 0 16) = u := by
  rw [← BitVec.setWidth_eq_extractLsb' (by decide)]
  exact BitVec.setWidth_setWidth_eq_self (by simpa [BitVec.lt_def] using h)

theorem packUnitBgra8888_unpackSample (u : Word) : packUnitBgra8888 (unpackSampleBgra8888 u) = u := by
  simp (disch := decide) only [packUnitBgra8888, unpackSampleBgra8888, reduce_expand,
    BitVec.extractLsb'_append_extractLsb'_eq_extractLsb']
  simp [zext32]

section SixteenBit

variable {u : Word} (h : u.toNat < 2 ^ 16)
include h

theorem packUnitBgr565_unpackSample : packUnitBgr565 (unpackSampleBgr565 u) = u := by
  simp (disch := decide) only [packUnitBgr565, unpackSampleBgr565, reduce_expand,
    BitVec.extractLsb'_append_extractLsb'_eq_extractLsb']
  exact zext32_extractLsb'_of_lt h

theorem packUnitBgra5551_unpackSample : packUnitBgra5551 (unpackSampleBgra5551 u) = u := by
  simp (disch := decide) only [packUnitBgra5551, unpackSampleBgra5551, reduce_expand,
    BitVec.extractLsb'_append_extractLsb'_eq_extractLsb']
  exact zext32_extractLsb'_of_lt h

theorem packUnitBgra4444_unpackSample : packUnitBgra4444 (unpackSampleBgra4444 u) = u := by
  simp (disch := decide) only [packUnitBgra4444, unpackSampleBgra4444, reduce_expand,
    BitVec.extractLsb'_append_extractLsb'_eq_extractLsb']
  exact zext32_extractLsb'_of_lt h

theorem packUnitRgb565_unpackSample (p : Params) : packUnitRgb565 p (unpackSampleRgb565 p u) = u := by
  cases hl : p.rgb565Layout with
  | rHigh => rw [unpackSampleRgb565_rHigh hl, packUnitRgb565_rHigh hl, packUnitBgr565_unpackSample h]
  | rLow =>
    rw [unpackSampleRgb565_rLow hl, packUnitRgb565_rLow hl]
    exact packUnitBgr565_unpackSample h

end SixteenBit

/-- A unit of its format's width survives unpacking and packing. -/
theorem packUnit_unpackSample (p : Params) (f : PackedFormat) (u : Word) (h : f = .bgra8888 ∨ u.toNat < 2 ^ 16) :
    packUnit p f (unpackSample p f u) = u := by
  cases f with
  | bgra8888 => exact packUnitBgra8888_unpackSample u
  | bgr565 => exact packUnitBgr565_unpackSample (h.resolve_left nofun)
  | bgra5551 => exact packUnitBgra5551_unpackSample (h.resolve_left nofun)
  | bgra4444 => exact packUnitBgra4444_unpackSample (h.resolve_left nofun)
  | rgb565 => exact packUnitRgb565_unpackSample (h.resolve_left nofun) p

/-- A sample that was unpacked has expanded fields, which reducing and expanding keeps. -/
theorem unpackSample_packUnit_unpackSample (p : Params) (f : PackedFormat) (u : Word) :
    unpackSample p f (packUnit p f (unpackSample p f u)) = unpackSample p f u := by
  cases f with
  | bgra8888 =>
    refine (unpackSampleBgra8888_packUnit _).trans ?_
    simp (disch := decide) only [unpackSample, unpackSampleBgra8888, reduce_expand]
  | bgr565 =>
    refine (unpackSampleBgr565_packUnit _).trans ?_
    simp (disch := decide) only [unpackSample, unpackSampleBgr565, reduce_expand]
  | bgra5551 =>
    refine (unpackSampleBgra5551_packUnit _).trans ?_
    simp (disch := decide) only [unpackSample, unpackSampleBgra5551, reduce_expand]
  | bgra4444 =>
    refine (unpackSampleBgra4444_packUnit _).trans ?_
    simp (disch := decide) only [unpackSample, unpackSampleBgra4444, reduce_expand]
  | rgb565 =>
    refine (unpackSampleRgb565_packUnit p _).trans ?_
    cases hl : p.rgb565Layout <;> simp (disch := decide) only [unpackSample, unpackSampleRgb565, hl, reduce_expand]

/-- Settles O24: both ways round, format by format. -/
theorem packInvertsUnpack : Obligations.PackInvertsUnpack :=
  ⟨packUnit_unpackSample, unpackSample_packUnit_unpackSample, fun _ => unpackSampleBgra8888_packUnit,
    fun _ => unpackSampleBgr565_packUnit, fun _ => unpackSampleBgra5551_packUnit,
    fun _ => unpackSampleBgra4444_packUnit, unpackSampleRgb565_packUnit⟩

end Sys2Proof.Machine
end

section
/-! SUPPORT. The block decoder (41_block_decoder.md R132 to R146): the bytes and fields of a block held in a bit vector,
one channel of a colour and the alpha over the naturals, and BLKPIX. -/

namespace Sys2Proof.Machine

/-! ### The fields of a block -/

/-- A slice of a slice is a slice. -/
theorem extractLsb'_extractLsb' {w o n s m : Nat} (v : BitVec w) (h : s + m ≤ n) :
    (v.extractLsb' o n).extractLsb' s m = v.extractLsb' (o + s) m := by
  refine BitVec.eq_of_getLsbD_eq fun i hi => ?_
  have hs : s + i < n := by omega
  simp [hi, hs, Nat.add_assoc]

/-- A field of a slice, shifted out and masked, is a slice. -/
theorem toNat_extractLsb'_shiftRight {w o n s : Nat} (m : Nat) (v : BitVec w) (h : s + m ≤ n) :
    (v.extractLsb' o n).toNat >>> s % 2 ^ m = (v.extractLsb' (o + s) m).toNat := by
  rw [← BitVec.extractLsb'_toNat, extractLsb'_extractLsb' v h]

/-- Consecutive bytes of a bit vector are the bytes of a slice of it. -/
theorem take_drop_bytesLE {w N o n : Nat} (v : BitVec w) (h : o + n ≤ N) :
    ((bytesLE N v).drop o).take n = bytesLE n (v.extractLsb' (8 * o) (8 * n)) := by
  refine List.ext_getElem (by simp; omega) fun i hi hi' => ?_
  rw [length_bytesLE] at hi'
  simp only [bytesLE, List.getElem_take, List.getElem_drop, List.getElem_map, List.getElem_range]
  rw [extractLsb'_extractLsb' v (by omega), Nat.mul_add]

/-- A bit vector is the little-endian value of its bytes. -/
theorem leBits_bytesLE {n : Nat} (v : BitVec (8 * n)) : leBits (8 * n) (bytesLE n v) = v := by
  have hnat : leNat (bytesLE n v) = v.toNat := by simpa [bytesLE] using leNat_range v 0 n
  rw [leBits, hnat, BitVec.ofNat_toNat, BitVec.setWidth_eq]

/-- The little-endian value of consecutive bytes is a slice. -/
theorem leBits_take_drop_bytesLE {w N o n : Nat} (v : BitVec w) (h : o + n ≤ N) :
    leBits (8 * n) (((bytesLE N v).drop o).take n) = v.extractLsb' (8 * o) (8 * n) := by
  rw [take_drop_bytesLE v h, leBits_bytesLE]

theorem c0raw_bytesLE (k : BitVec 64) : c0raw (bytesLE 8 k) = k.extractLsb' 0 16 :=
  leBits_take_drop_bytesLE (o := 0) (n := 2) k (by decide)

theorem c1raw_bytesLE (k : BitVec 64) : c1raw (bytesLE 8 k) = k.extractLsb' 16 16 :=
  leBits_take_drop_bytesLE (n := 2) k (by decide)

theorem indexGrid_bytesLE (k : BitVec 64) : indexGrid (bytesLE 8 k) = k.extractLsb' 32 32 :=
  leBits_take_drop_bytesLE (n := 4) k (by decide)

theorem alphaIndexWord_bytesLE (v : BitVec 128) : alphaIndexWord (bytesLE 16 v) = v.extractLsb' 16 48 :=
  leBits_take_drop_bytesLE (n := 6) v (by decide)

theorem pixelNumber_lt (lx ly : Fin 4) : pixelNumber lx ly < 16 := by
  rw [pixelNumber]
  omega

theorem colourIndex_bytesLE (k : BitVec 64) (lx ly : Fin 4) :
    colourIndex (bytesLE 8 k) lx ly = (k.extractLsb' (32 + 2 * pixelNumber lx ly) 2).toNat := by
  have hp := pixelNumber_lt lx ly
  rw [colourIndex, indexGrid_bytesLE]
  exact toNat_extractLsb'_shiftRight 2 k (by omega)

theorem alphaIndex_bytesLE (v : BitVec 128) (lx ly : Fin 4) :
    alphaIndex (bytesLE 16 v) lx ly = (v.extractLsb' (16 + 3 * pixelNumber lx ly) 3).toNat := by
  have hp := pixelNumber_lt lx ly
  rw [alphaIndex, alphaIndexWord_bytesLE]
  exact toNat_extractLsb'_shiftRight 3 v (by omega)

/-! ### The colour (R135) -/

theorem toNat_blendChannel_four_2 (e0 e1 : Channel) :
    (blendChannel true 2 e0 e1).toNat = (2 * e0.toNat + e1.toNat) / 3 :=
  Nat.mod_eq_of_lt (by omega)

theorem toNat_blendChannel_four_3 (e0 e1 : Channel) :
    (blendChannel true 3 e0 e1).toNat = (e0.toNat + 2 * e1.toNat) / 3 :=
  Nat.mod_eq_of_lt (by omega)

theorem toNat_blendChannel_three_2 (e0 e1 : Channel) :
    (blendChannel false 2 e0 e1).toNat = (e0.toNat + e1.toNat) / 2 :=
  Nat.mod_eq_of_lt (by omega)

/-- One channel of a pixel is R135's value over the naturals: no sum is cut. -/
theorem interpolatesTo_blendChannel (four : Prop) [Decidable four] (cidx : Nat) (e0 e1 : Channel) :
    interpolatesTo four cidx e0.toNat e1.toNat (blendChannel (decide four) cidx e0 e1).toNat := by
  refine ⟨?_, ?_, ?_, ?_, ?_, ?_⟩ <;> rintro rfl
  · rfl
  · rfl
  · intro h
    rw [decide_eq_true h, toNat_blendChannel_four_2]
  · intro h
    rw [decide_eq_false h, toNat_blendChannel_three_2]
  · intro h
    rw [decide_eq_true h, toNat_blendChannel_four_3]
  · intro h
    rw [decide_eq_false h]
    rfl

/-- The colour of a block of 8 bytes held in a bit vector. -/
theorem coloursBlock_dxtColour (p : Params) (k : BitVec 64) (lx ly : Fin 4) :
    coloursBlock p k (pixelNumber lx ly) (dxtColour p (bytesLE 8 k) lx ly) := by
  simp only [dxtColour, colourIndex_bytesLE, c0raw_bytesLE, c1raw_bytesLE]
  exact ⟨interpolatesTo_blendChannel .., interpolatesTo_blendChannel .., interpolatesTo_blendChannel ..⟩

/-! ### The alpha (R138, R139) -/

theorem toNat_dxt3Alpha_bytesLE (v : BitVec 128) (lx ly : Fin 4) :
    (dxt3Alpha (bytesLE 16 v) lx ly).toNat = (v.extractLsb' (4 * pixelNumber lx ly) 4).toNat * 0x1111 := by
  have hp := pixelNumber_lt lx ly
  have hlow : leBits 64 ((bytesLE 16 v).take 8) = v.extractLsb' 0 64 :=
    leBits_take_drop_bytesLE (o := 0) (n := 8) v (by decide)
  rw [dxt3Alpha, toNat_expand_4, hlow, BitVec.toNat_ofNat, toNat_extractLsb'_shiftRight 4 v (by omega), Nat.zero_add]

/-- A weighted mean stays below a bound of its two values. -/
theorem weightedMean_le {n i a b M : Nat} (hi : i ≤ n) (ha : a ≤ M) (hb : b ≤ M) : ((n - i) * a + i * b) / n ≤ M := by
  refine Nat.div_le_of_le_mul ?_
  calc (n - i) * a + i * b ≤ (n - i) * M + i * M := by gcongr
    _ = n * M := by rw [← add_mul, Nat.sub_add_cancel hi]

/-- Unless the first anchor is the larger, indices 6 and 7 are constants. -/
theorem blendAlpha_constants {a0 a1 : Channel} (h : a0.toNat ≤ a1.toNat) :
    blendAlpha 6 a0 a1 = 0x0000 ∧ blendAlpha 7 a0 a1 = 0xFFFF := by
  simp [blendAlpha, Nat.not_lt.mpr h]

/-- The alpha of an index is R139's value over the naturals: no sum is cut. -/
theorem alphaSelects_blendAlpha {aidx : Nat} (h : aidx < 8) (a0 a1 : Channel) :
    alphaSelects aidx a0.toNat a1.toNat (blendAlpha aidx a0 a1).toNat := by
  have hmean (n : Nat) (hn : aidx - 1 ≤ n) :
      (BitVec.ofNat 16 (((n - (aidx - 1)) * a0.toNat + (aidx - 1) * a1.toNat) / n)).toNat =
        ((n - (aidx - 1)) * a0.toNat + (aidx - 1) * a1.toNat) / n :=
    Nat.mod_eq_of_lt (Nat.lt_succ_of_le (weightedMean_le hn (Nat.le_of_lt_succ a0.isLt) (Nat.le_of_lt_succ a1.isLt)))
  refine ⟨?_, ?_, fun h2 hlt => ?_, fun h2 h5 hle => ?_, ?_, ?_⟩
  · rintro rfl
    rfl
  · rintro rfl
    rfl
  · rw [blendAlpha, if_neg (by omega), if_neg (by omega), if_pos hlt, hmean 7 (by omega)]
  · rw [blendAlpha, if_neg (by omega), if_neg (by omega), if_neg (by omega), if_pos h5, hmean 5 (by omega)]
  · rintro rfl hle
    exact congrArg BitVec.toNat (blendAlpha_constants hle).1
  · rintro rfl hle
    exact congrArg BitVec.toNat (blendAlpha_constants hle).2

/-! ### BLKPIX (R140 to R142) -/

/-- The colour of the 8-byte block that a DXT1 block is. -/
theorem coloursBlock_dxt1Pixel (p : Params) (v : BitVec 128) (lx ly : Fin 4) :
    coloursBlock p (v.extractLsb' 0 64) (pixelNumber lx ly) (dxt1Pixel p (bytesLE 8 v) lx ly) := by
  have hblock : (bytesLE 8 v).take 8 = bytesLE 8 (v.extractLsb' 0 64) :=
    take_drop_bytesLE (o := 0) (n := 8) v (by decide)
  rw [dxt1Pixel, hblock]
  exact coloursBlock_dxtColour ..

/-- R143: the colour of bytes 8 to 15. -/
theorem coloursBlock_dxtColour_upper (p : Params) (v : BitVec 128) (lx ly : Fin 4) :
    coloursBlock p (v.extractLsb' 64 64) (pixelNumber lx ly) (dxtColour p ((bytesLE 16 v).drop 8) lx ly) := by
  have hblock : (bytesLE 16 v).drop 8 = bytesLE 8 (v.extractLsb' 64 64) :=
    (List.take_of_length_le (by simp)).symm.trans (take_drop_bytesLE (n := 8) v (by decide))
  rw [hblock]
  exact coloursBlock_dxtColour ..

theorem alphaSelects_dxt5Alpha (v : BitVec 128) (lx ly : Fin 4) :
    alphaSelects (v.extractLsb' (16 + 3 * pixelNumber lx ly) 3).toNat ((v.extractLsb' 0 8).toNat * 0x0101)
      ((v.extractLsb' 8 8).toNat * 0x0101) (dxt5Alpha (bytesLE 16 v) lx ly).toNat := by
  rw [dxt5Alpha, alphaIndex_bytesLE, getD_bytesLE v (by decide), getD_bytesLE v (by decide), ← toNat_expand_8,
    ← toNat_expand_8]
  exact alphaSelects_blendAlpha (BitVec.isLt _) ..

/-- What BLKPIX does, given what its pixel function says of the linear pixel number (R140 to R142, R146). -/
theorem blkpixCommandOf_result (f : BlockFormat) (s : State) {Q : Nat → Sample → Prop}
    (hQ : ∀ lx ly, Q (pixelNumber lx ly) (blockPixel s.params f (s.blockBytes (blockUnitSize f)) lx ly)) :
    (inBlock s.argX.toInt ∧ inBlock s.argY.toInt →
      ∃ v, blkpixCommandOf f s = .next { s with res := v } ∧ Q (4 * s.argY.toInt + s.argX.toInt).toNat v) ∧
    (¬ (inBlock s.argX.toInt ∧ inBlock s.argY.toInt) → blkpixCommandOf f s = .next { s with cmdErr := true }) := by
  refine ⟨fun h => ?_, blkpixCommandOf_outside s f⟩
  obtain ⟨lx, ly, hx, hy, hp⟩ := localCoord_inside s h
  exact ⟨_, blkpixCommandOf_inside s f lx ly hx hy, hp ▸ hQ lx ly⟩

/-- Settles O25: the block is bytes 0 to 7 of `BLK`; the alpha is opaque. -/
theorem blkpixDxt1Result : Obligations.BlkpixDxt1Result := fun s =>
  blkpixCommandOf_result .dxt1 s
    (Q := fun n v => coloursBlock s.params (s.blk.extractLsb' 0 64) n v ∧ v.a = 0xFFFF)
    fun lx ly => ⟨coloursBlock_dxt1Pixel s.params s.blk lx ly, rfl⟩

/-- Settles O26: the colour block is bytes 8 to 15 of `BLK`, the alpha a nibble of bytes 0 to 7. -/
theorem blkpixDxt3Result : Obligations.BlkpixDxt3Result := fun s =>
  blkpixCommandOf_result .dxt3 s
    (Q := fun n v => coloursBlock s.params (s.blk.extractLsb' 64 64) n v ∧
      v.a.toNat = (s.blk.extractLsb' (4 * n) 4).toNat * 0x1111)
    fun lx ly => ⟨coloursBlock_dxtColour_upper s.params s.blk lx ly, toNat_dxt3Alpha_bytesLE s.blk lx ly⟩

/-- Settles O27: the colour block is bytes 8 to 15 of `BLK`, the anchors and indices of the alpha are bytes 0 to 7. -/
theorem blkpixDxt5Result : Obligations.BlkpixDxt5Result := fun s =>
  blkpixCommandOf_result .dxt5 s
    (Q := fun n v => coloursBlock s.params (s.blk.extractLsb' 64 64) n v ∧
      alphaSelects (s.blk.extractLsb' (16 + 3 * n) 3).toNat ((s.blk.extractLsb' 0 8).toNat * 0x0101)
        ((s.blk.extractLsb' 8 8).toNat * 0x0101) v.a.toNat)
    fun lx ly => ⟨coloursBlock_dxtColour_upper s.params s.blk lx ly, alphaSelects_dxt5Alpha s.blk lx ly⟩

/-! ### The laws of R144 and R145 -/

/-- In the mode of equal endpoints the indices below 3 select the one endpoint. -/
theorem blendChannel_self {cidx : Nat} (h : cidx ≤ 2) (e : Channel) : blendChannel false cidx e e = e := by
  obtain rfl | rfl | rfl : cidx = 0 ∨ cidx = 1 ∨ cidx = 2 := by omega
  · rfl
  · rfl
  · refine BitVec.eq_of_toNat_eq ?_
    rw [toNat_blendChannel_three_2]
    omega

/-- The colour of a block of either mode (R134, R135). -/
theorem dxtColour_of_mode {four : Bool} {k : List Byte} (h : decide ((c1raw k).toNat < (c0raw k).toNat) = four)
    (p : Params) (lx ly : Fin 4) :
    dxtColour p k lx ly =
      ⟨blendChannel four (colourIndex k lx ly) (endpoint p (c0raw k)).r (endpoint p (c1raw k)).r,
        blendChannel four (colourIndex k lx ly) (endpoint p (c0raw k)).g (endpoint p (c1raw k)).g,
        blendChannel four (colourIndex k lx ly) (endpoint p (c0raw k)).b (endpoint p (c1raw k)).b, 0xFFFF⟩ := by
  subst h
  rfl

/-- Settles O28: equal endpoints are not in decreasing order, nor are the swapped ones of a block in that order. -/
theorem colourBlockLaws : Obligations.ColourBlockLaws := by
  refine ⟨fun p k lx ly heq => ?_, fun p k k' lx ly h0 h1 hlt => ⟨?_, ?_⟩, fun e0 e1 => ?_,
    fun e0 e1 i hi => ?_, by decide⟩
  · rw [dxtColour_of_mode (four := false) (by simp [heq]), ← heq]
    refine ⟨fun hidx => ?_, fun hidx => ?_⟩
    · simp only [blendChannel_self hidx]
    · rw [hidx]
      rfl
  · exact dxtColour_of_mode (decide_eq_true hlt) p lx ly
  · rw [dxtColour_of_mode (four := false) (by rw [h0, h1]; exact decide_eq_false hlt.not_gt), h0, h1]
  · exact ⟨toNat_blendChannel_four_2 e0 e1, toNat_blendChannel_four_3 e0 e1, toNat_blendChannel_three_2 e0 e1, rfl⟩
  · obtain rfl | rfl : i = 2 ∨ i = 3 := by simpa using hi
    · rw [toNat_blendChannel_four_2]
      omega
    · rw [toNat_blendChannel_four_3]
      omega

/-- Between equal anchors the indices below 6 select the one anchor. -/
theorem blendAlpha_self {aidx : Nat} (h : aidx ≤ 5) (a : Channel) : (blendAlpha aidx a a).toNat = a.toNat := by
  obtain ⟨h0, h1, -, hmean, -, -⟩ := alphaSelects_blendAlpha (by omega : aidx < 8) a a
  obtain rfl | rfl | h2 : aidx = 0 ∨ aidx = 1 ∨ 2 ≤ aidx := by omega
  · exact h0 rfl
  · exact h1 rfl
  · rw [hmean h2 h le_rfl, ← add_mul, Nat.sub_add_cancel (by omega), Nat.mul_div_cancel_left _ (by decide)]

/-- Settles O29: the two modes are R139's; equal anchors are in the mode of the constants. -/
theorem dxt5AlphaLaws : Obligations.Dxt5AlphaLaws := by
  refine ⟨fun a0 a1 hlt => ?_, fun _ _ => blendAlpha_constants, by decide, by decide, fun v => ⟨fun i hi => ?_, ?_⟩⟩
  · obtain ⟨-, -, h6, -, -, -⟩ := alphaSelects_blendAlpha (by decide : 6 < 8) a0 a1
    obtain ⟨-, -, h7, -, -, -⟩ := alphaSelects_blendAlpha (by decide : 7 < 8) a0 a1
    exact ⟨h6 (by decide) hlt, by simpa using h7 (by decide) hlt⟩
  · rw [blendAlpha_self hi, toNat_expand_8]
  · exact blendAlpha_constants le_rfl

end Sys2Proof.Machine
end

section
/-! SUPPORT. The units of a level (42_pixel_buffer.md R163 to R169): the geometry in numbers, the offsets of a level's
pixels, and the bytes a unit is read from and written to (20_memory.md R55 to R57). -/

namespace Sys2Proof.Machine

/-! ### Geometry (R163 to R165) -/

theorem rowsOf_packed (f : PackedFormat) (h : Nat) : rowsOf (.packed f) h = h := by
  simp [rowsOf, ceilDiv, blockDim]

/-- Settles O60: the sizes and codes are R71's; only the rows of a packed level are not yet in their numbers. -/
theorem levelGeometry : Obligations.LevelGeometry :=
  ⟨rfl, rfl, fun _ => ⟨rfl, rfl⟩, fun _ => ⟨rfl, rfl⟩, rfl,
    fun f w h => ⟨rfl, rowsOf_packed f h, congrArg (w * packedUnitSize f * ·) (rowsOf_packed f h)⟩,
    fun _ _ _ => ⟨rfl, rfl, rfl⟩, fun _ _ _ => ⟨rfl, rfl, rfl, rfl⟩⟩

/-! ### Offsets (R167 to R169) -/

theorem Level.Ok.stride_eq {m : Level} (hm : m.Ok) :
    m.stride = ceilDiv m.w.toNat (blockDim m.fmt) * unitSize m.fmt := by
  obtain ⟨-, -, hstride, -⟩ := hm
  rw [hstride, strideOf_eq]

theorem Level.Ok.wf_store {m : Level} (hm : m.Ok) : Memory.wf m.store = true := by
  obtain ⟨-, -, -, -, hwf, -⟩ := hm
  exact hwf

/-- Settles O37: rows and columns are of whole units. -/
theorem offsetsStayInStore : Obligations.OffsetsStayInStore := by
  intro m x y hm hr
  obtain ⟨hnonneg, hend⟩ := hm.offsetOf_bounds hr
  refine ⟨hnonneg, hend, ?_⟩
  obtain ⟨i, j, rfl, rfl, -, -⟩ := hm.coords hr
  rw [hm.offsetOf_natCast, hm.stride_eq, Int.natCast_dvd_natCast]
  exact dvd_add ((dvd_mul_left ..).mul_right _) (dvd_mul_left ..)

/-- A unit's offset is a natural number, and the unit ends inside the store. -/
theorem Level.Ok.exists_offset {m : Level} {x y : Int} (hm : m.Ok) (hr : inRectangle m x y) :
    ∃ off : Nat, offsetOf m x y = off ∧ off + unitSize m.fmt ≤ m.len := by
  obtain ⟨hnonneg, hend⟩ := hm.offsetOf_bounds hr
  exact ⟨(offsetOf m x y).toNat, (Int.toNat_of_nonneg hnonneg).symm, by omega⟩

theorem offsetOf_packed {m : Level} {f : PackedFormat} (hf : m.fmt = .packed f) (x y : Int) :
    offsetOf m x y = (y - m.minY.toInt) * m.stride + (x - m.minX.toInt) * packedUnitSize f := by
  simp only [offsetOf, hf, unitSize]

theorem offsetOf_block {m : Level} {f : BlockFormat} (hf : m.fmt = .block f) (x y : Int) :
    offsetOf m x y = m.stride * (y / 4) + x / 4 * blockUnitSize f := by
  simp only [offsetOf, hf, unitSize]

/-- The pixels of a packed level are numbered row by row, and each has its own unit. -/
theorem Level.Ok.offsetOf_packed_natCast {m : Level} {f : PackedFormat} (hm : m.Ok) (hf : m.fmt = .packed f)
    (i j : Nat) : offsetOf m i j = ((m.w.toNat * j + i) * packedUnitSize f : Nat) := by
  have hcols : ceilDiv m.w.toNat 1 = m.w.toNat := by simp [ceilDiv]
  simp only [hm.offsetOf_natCast, hm.stride_eq, hf, unitSize, blockDim, Nat.div_one, hcols]
  congr 1
  ring

/-- Column and row of a pixel are read off its number. -/
theorem pixel_eq_of_number_eq {w i j i' j' : Nat} (hi : i < w) (hi' : i' < w) (h : w * j' + i' = w * j + i) :
    i' = i ∧ j' = j := by
  have hrow := congrArg (· / w) h
  have hcol := congrArg (· % w) h
  have hw : 0 < w := by omega
  simp only [Nat.mul_add_div hw, Nat.div_eq_of_lt, Nat.mul_add_mod, Nat.mod_eq_of_lt, hi, hi'] at hrow hcol
  exact ⟨hcol, hrow⟩

/-- The units of two pixels of a packed level share no byte. -/
theorem Level.Ok.offsetOf_disjoint {m : Level} {f : PackedFormat} {x y x' y' : Int} (hm : m.Ok)
    (hf : m.fmt = .packed f) (hr : inRectangle m x y) (hr' : inRectangle m x' y') (hne : x' ≠ x ∨ y' ≠ y) :
    offsetOf m x' y' + packedUnitSize f ≤ offsetOf m x y ∨ offsetOf m x y + packedUnitSize f ≤ offsetOf m x' y' := by
  obtain ⟨i, j, rfl, rfl, hi, -⟩ := hm.coords hr
  obtain ⟨i', j', rfl, rfl, hi', -⟩ := hm.coords hr'
  have hnumber : m.w.toNat * j' + i' ≠ m.w.toNat * j + i := fun h => by
    have := pixel_eq_of_number_eq hi hi' h
    omega
  have hend {a b : Nat} (h : a < b) : a * packedUnitSize f + packedUnitSize f ≤ b * packedUnitSize f := by
    rw [← Nat.succ_mul]
    exact Nat.mul_le_mul_right _ h
  simp only [hm.offsetOf_packed_natCast hf]
  exact (Nat.lt_or_gt_of_ne hnumber).imp (fun h => mod_cast hend h) fun h => mod_cast hend h

/-! ### The bytes of a unit (20_memory.md R55 to R57) -/

/-- The bytes of a store are those of a value where a read returns them. -/
theorem storeHolds_iff {w : Nat} {st : Memory} {off n : Nat} {u : BitVec w} :
    storeHolds st off n u ↔ Memory.readBytes st off n = bytesLE n u := by
  simp [storeHolds, Memory.readBytes, bytesLE]

/-- Bytes that fit in a bit vector are the bytes of its value. -/
theorem bytesLE_leBits {w n : Nat} {d : List Byte} (hd : d.length = n) (h : 8 * n ≤ w) :
    bytesLE n (leBits w d) = d := by
  subst hd
  refine List.ext_getElem (by simp) fun j hj hj' => ?_
  simp [bytesLE, leBits_byte w d j hj' h, hj']

theorem toNat_leBits_lt (w : Nat) {n : Nat} {d : List Byte} (hd : d.length = n) : (leBits w d).toNat < 2 ^ (8 * n) :=
  (BitVec.toNat_ofNat ..).trans_lt ((Nat.mod_le ..).trans_lt (leNat_lt n d hd))

/-- A value is that of its first `n` bytes, where it has no others. -/
theorem leBits_bytesLE_of_lt {w n : Nat} {u : BitVec w} (h : u.toNat < 2 ^ (8 * n)) : leBits w (bytesLE n u) = u := by
  have hnat : leNat (bytesLE n u) = u.toNat % 2 ^ (8 * n) := by simpa [bytesLE] using leNat_range u 0 n
  rw [leBits, hnat, Nat.mod_eq_of_lt h, BitVec.ofNat_toNat, BitVec.setWidth_eq]

/-- A read of the bytes just written returns them. -/
theorem Memory.readBytes_writeBytes_self {m : Memory} (hm : Memory.wf m = true) (off : Nat) (d : List Byte) :
    Memory.readBytes (Memory.writeBytes m off d) off d.length = d := by
  refine List.ext_getElem (by simp) fun j hj hj' => ?_
  simp [Memory.readBytes, Memory.read_writeBytes d m off _ hm, hj']

/-- MemWrite's bytes read back (20_memory.md R56). -/
theorem readBytes_memWrite_self {m m' : Level} {off : Int} {d : List Byte} (h : memWrite m off d = some m')
    (hw : Memory.wf m.store = true) : Memory.readBytes m'.store off.toNat d.length = d := by
  unfold memWrite at h
  split at h
  · cases h
    exact Memory.readBytes_writeBytes_self hw off.toNat d
  · cases h

/-- Stores that agree on the bytes of a read return the same. -/
theorem Memory.readBytes_congr {m m' : Memory} {off n : Nat}
    (h : ∀ a, off ≤ a → a < off + n → Memory.read m' a = Memory.read m a) :
    Memory.readBytes m' off n = Memory.readBytes m off n :=
  List.map_congr_left fun i hi => h _ (by omega) (by simpa using hi)

theorem packedUnitSize_le (f : PackedFormat) : packedUnitSize f ≤ 4 := by
  cases f <;> decide

/-- Widening a unit to `UNIT`'s 32 bits adds no bit. -/
theorem toNat_zext32_lt {n : Nat} (u : BitVec n) : (zext32 u).toNat < 2 ^ n :=
  (BitVec.toNat_setWidth ..).trans_lt ((Nat.mod_le ..).trans_lt u.isLt)

/-- A packed unit has no bit above its format's bytes (40_packed_codec.md R111). -/
theorem toNat_packUnit_lt (p : Params) (f : PackedFormat) (v : Sample) :
    (packUnit p f v).toNat < 2 ^ (8 * packedUnitSize f) := by
  cases f with
  | bgra8888 | bgr565 | bgra5551 | bgra4444 => exact toNat_zext32_lt _
  | rgb565 =>
    change (packUnitRgb565 p v).toNat < _
    cases hl : p.rgb565Layout with
    | rHigh => rw [packUnitRgb565_rHigh hl]; exact toNat_zext32_lt _
    | rLow => rw [packUnitRgb565_rLow hl]; exact toNat_zext32_lt _

end Sys2Proof.Machine
end

section
/-! SUPPORT. AT and SET (42_pixel_buffer.md R166 to R177): the sample AT reads off a level, the level SET leaves, and
what AT returns after SET. -/

namespace Sys2Proof.Machine

/-! ### AT -/

/-- AT on a level completes with a sample exactly where the level gives it (R170). -/
theorem exec_atPixel_iff {s : State} {m : Level} {v : Sample} (hm : s.mip[s.selLevel.toNat]? = some m) :
    exec .atPixel s = .next { s with res := v } ↔ sampleAt s.params m s.argX.toInt s.argY.toInt = some v := by
  change execAt s = .next (s.setRes v) ↔ sampleAt s.params m s.x s.y = some v
  have hsel : s.selected = some m := hm
  cases hv : sampleAt s.params m s.x s.y with
  | none => simp only [execAt, hsel, hv, reduceCtorEq]
  | some x =>
    simp only [execAt, hsel, hv, Host.Outcome.next.injEq, Option.some.injEq]
    exact ⟨congrArg State.res, fun h => h ▸ rfl⟩

/-- A point outside the rectangle has the zero sample (R166, R173). -/
theorem sampleAt_outside {m : Level} {x y : Int} (hr : ¬ inRectangle m x y) (p : Params) :
    sampleAt p m x y = some Sample.zero := by
  rw [sampleAt, if_neg ((inRect_iff m x y).not.mpr hr)]

/-- A pixel inside the rectangle has the sample of its unit (R171, R172). -/
theorem Level.Ok.sampleAt_inside {m : Level} {x y : Int} (hm : m.Ok) (hr : inRectangle m x y) (p : Params) :
    sampleAt p m x y =
      some (unitSample p m.fmt (Memory.readBytes m.store (offsetOf m x y).toNat (unitSize m.fmt)) x y) := by
  have hin : inRect m x y = true := (inRect_iff m x y).mpr hr
  simp only [sampleAt, hin, if_true, memRead, hm.storeCovers_offsetOf hin, Option.map_some]

/-- Settles O31: the unit is the little-endian value of the bytes at the pixel's offset. -/
theorem atPackedResult : Obligations.AtPackedResult := by
  intro s m f hsel hm hf hr
  obtain ⟨off, hoff, hend⟩ := hm.exists_offset hr
  have hsample := hm.sampleAt_inside hr s.params
  simp only [hf, unitSize, hoff, Int.toNat_natCast, unitSample] at hend hsample
  have hlen := Memory.length_readBytes m.store off (packedUnitSize f)
  have hfits : 8 * packedUnitSize f ≤ 32 := Nat.mul_le_mul_left 8 (packedUnitSize_le f)
  exact ⟨off, leBits 32 (Memory.readBytes m.store off (packedUnitSize f)), hoff ▸ offsetOf_packed hf .., hend,
    storeHolds_iff.mpr (bytesLE_leBits hlen hfits).symm, toNat_leBits_lt 32 hlen, (exec_atPixel_iff hsel).mpr hsample⟩

/-! ### AT and BLKPIX (R172) -/

/-- The coordinate inside the block, written to an operand register, is a local coordinate. -/
theorem localCoord_ofInt_emod (v : Int) : localCoord (BitVec.ofInt 64 (v % 4)).toInt = some (coordInBlock v) := by
  have hv : (BitVec.ofInt 64 (v % 4)).toInt = v % 4 :=
    BitVec.toInt_ofInt_eq_self (by decide) (by omega) (by omega)
  rw [hv, localCoord, dif_pos (by omega)]
  rfl

theorem exec_blkpixOf (f : BlockFormat) (s : State) : exec (blkpixOf f) s = blkpixCommandOf f s := by
  cases f <;> rfl

/-- Settles O32: a block in `BLK` that holds the bytes at the offset is the byte string AT decodes. -/
theorem atBlockAgreesWithBlkpix : Obligations.AtBlockAgreesWithBlkpix := by
  intro s m f hsel hm hf hr
  obtain ⟨off, hoff, hend⟩ := hm.exists_offset hr
  have hsample := hm.sampleAt_inside hr s.params
  simp only [hf, unitSize, hoff, Int.toNat_natCast, unitSample] at hend hsample
  refine ⟨off, _, hoff ▸ offsetOf_block hf .., hend, (exec_atPixel_iff hsel).mpr hsample, fun k hk => ?_⟩
  rw [exec_blkpixOf, storeHolds_iff.mp hk]
  exact blkpixCommandOf_inside _ f _ _ (localCoord_ofInt_emod s.argX.toInt) (localCoord_ofInt_emod s.argY.toInt)

/-! ### SET, and both commands without a pixel to read or write -/

theorem exec_setPixel_packed {s : State} {m : Level} {f : PackedFormat} (hm : s.mip[s.selLevel.toNat]? = some m)
    (hf : m.fmt = .packed f) : exec .setPixel s = setPacked m f s := by
  simp only [exec, execSet, State.selected, hm, hf]

/-- Settles O34: the format is tested before the coordinates. -/
theorem setOnBlockRefused : Obligations.SetOnBlockRefused := by
  intro s m f hm hf
  simp only [exec, execSet, State.selected, hm, hf, refuseCommand]

/-- Settles O33: the level is looked up before anything else. -/
theorem missingLevelRefused : Obligations.MissingLevelRefused := by
  intro s h
  have hnone : s.selected = none := List.getElem?_eq_none h
  simp only [exec, execAt, execSet, hnone, refuseCommand, and_self]

/-- Settles O30: both commands test the rectangle before they compute an offset. -/
theorem outsideRectangle : Obligations.OutsideRectangle := by
  intro s m hm hr
  refine ⟨(exec_atPixel_iff hm).mpr (sampleAt_outside hr s.params), fun f hf => ?_⟩
  have hout : ¬ inRect m s.x s.y = true := (inRect_iff m s.x s.y).not.mpr hr
  rw [exec_setPixel_packed hm hf, setPacked, if_neg hout]

/-! ### SET inside the rectangle (R175, R177) -/

/-- Inside the rectangle MemWrite of the pixel's unit is defined, and SET keeps its level (R175). -/
theorem exec_setPixel_inside {s : State} {m : Level} {f : PackedFormat} (hok : m.Ok)
    (hm : s.mip[s.selLevel.toNat]? = some m) (hf : m.fmt = .packed f)
    (hr : inRectangle m s.argX.toInt s.argY.toInt) :
    ∃ m', levelSet s.params m f s.argX.toInt s.argY.toInt s.arg = some m' ∧
      exec .setPixel s = .next (s.setSelected m') := by
  have hin : inRect m s.x s.y = true := (inRect_iff m s.x s.y).mpr hr
  have hcover : storeCovers m (offsetOf m s.x s.y) (packedUnitSize f) = true := by
    simpa only [hf, unitSize] using hok.storeCovers_offsetOf hin
  rw [exec_setPixel_packed hm hf]
  rcases setPacked_cases m f s with ⟨hout, -⟩ | ⟨m', -, hset, he⟩ | ⟨-, hset, -⟩
  · rw [hin] at hout
    cases hout
  · exact ⟨m', hset, he⟩
  · have huncovered := storeCovers_of_memWrite_none hset
    rw [length_bytesLE, hcover] at huncovered
    cases huncovered

section LevelSet

variable {p : Params} {m m' : Level} {f : PackedFormat} {x y : Int} {v : Sample} (hok : m.Ok)
  (h : levelSet p m f x y v = some m')
include h

/-- SET leaves everything of a level that a coordinate is looked up by. -/
theorem levelSet_geometry (x' y' : Int) :
    m'.fmt = m.fmt ∧ offsetOf m' x' y' = offsetOf m x' y' ∧ (inRectangle m' x' y' ↔ inRectangle m x' y') := by
  rw [(levelSet_some h).1]
  exact ⟨rfl, rfl, Iff.rfl⟩

include hok

/-- The written unit reads back as its bytes. -/
theorem readBytes_levelSet_self :
    Memory.readBytes m'.store (offsetOf m x y).toNat (packedUnitSize f) =
      bytesLE (packedUnitSize f) (packUnit p f v) := by
  simpa only [length_bytesLE] using readBytes_memWrite_self h hok.wf_store

variable (hf : m.fmt = .packed f) (hr : inRectangle m x y)
include hf hr

/-- The pixel that SET wrote has the packed and unpacked sample. -/
theorem sampleAt_levelSet_self : sampleAt p m' x y = some (unpackSample p f (packUnit p f v)) := by
  obtain ⟨hfmt, hoff, hrect⟩ := levelSet_geometry h x y
  rw [(hok.levelSet h).sampleAt_inside (hrect.mpr hr), hfmt, hoff, hf, unitSize, readBytes_levelSet_self hok h,
    unitSample, leBits_bytesLE_of_lt (toNat_packUnit_lt p f v)]

/-- Every other point has the sample it had: its unit shares no byte with the written one. -/
theorem sampleAt_levelSet_other {x' y' : Int} (hne : x' ≠ x ∨ y' ≠ y) :
    sampleAt p m' x' y' = sampleAt p m x' y' := by
  obtain ⟨hfmt, hoff, hrect⟩ := levelSet_geometry h x' y'
  by_cases hr' : inRectangle m x' y'
  · have hdisjoint := hok.offsetOf_disjoint hf hr hr' hne
    have hnonneg := (hok.offsetOf_bounds hr').1
    have hbytes : Memory.readBytes m'.store (offsetOf m x' y').toNat (packedUnitSize f) =
        Memory.readBytes m.store (offsetOf m x' y').toNat (packedUnitSize f) :=
      Memory.readBytes_congr fun a _ _ => (levelSet_some h).2 a (by omega)
    rw [(hok.levelSet h).sampleAt_inside (hrect.mpr hr'), hok.sampleAt_inside hr', hfmt, hoff, hf, unitSize, hbytes]
  · rw [sampleAt_outside (hrect.not.mpr hr'), sampleAt_outside hr']

end LevelSet

/-- Settles O35: the unit's bytes are written, and MemWrite changes no other. -/
theorem setPackedResult : Obligations.SetPackedResult := by
  intro s m f hm hok hf hr
  obtain ⟨m', hset, he⟩ := exec_setPixel_inside hok hm hf hr
  obtain ⟨off, hoff, hend⟩ := hok.exists_offset hr
  obtain ⟨hstore, houtside⟩ := levelSet_some hset
  have hself := readBytes_levelSet_self hok hset
  rw [hf] at hend
  rw [hoff, Int.toNat_natCast] at hself
  refine ⟨off, m'.store, hoff ▸ offsetOf_packed hf .., hend, ?_, storeHolds_iff.mpr hself, fun a ha => ?_⟩
  · rw [he, State.setSelected, ← hstore]
  · exact houtside a (by rw [hoff]; exact_mod_cast ha)

/-- After SET every pixel but the one it wrote, of its level or of another, has the sample it had. -/
theorem sampleAt_setSelected_other {s : State} {m m' : Level} {f : PackedFormat} {l : Word} {x y : DWord}
    (hm : s.mip[s.selLevel.toNat]? = some m) (hok : m.Ok) (hf : m.fmt = .packed f)
    (hr : inRectangle m s.argX.toInt s.argY.toInt)
    (hset : levelSet s.params m f s.argX.toInt s.argY.toInt s.arg = some m') (hl : l.toNat < s.nlev)
    (hne : l ≠ s.selLevel ∨ x ≠ s.argX ∨ y ≠ s.argY) :
    ∃ n n', s.mip[l.toNat]? = some n ∧ (s.setSelected m').mip[l.toNat]? = some n' ∧
      sampleAt s.params n' x.toInt y.toInt = sampleAt s.params n x.toInt y.toInt := by
  by_cases hsel : l = s.selLevel
  · subst hsel
    have hpixel : x.toInt ≠ s.argX.toInt ∨ y.toInt ≠ s.argY.toInt := by
      simpa only [ne_eq, not_true_eq_false, false_or, BitVec.toInt_inj] using hne
    exact ⟨m, m', hm, List.getElem?_set_self hl, sampleAt_levelSet_other hok hset hf hr hpixel⟩
  · have hlevel : s.mip[l.toNat]? = some s.mip[l.toNat] := List.getElem?_eq_getElem hl
    exact ⟨_, _, hlevel, (List.getElem?_set_ne fun h => hsel (BitVec.eq_of_toNat_eq h.symm)).trans hlevel, rfl⟩

/-- Settles O36: AT reads its sample off the level that SET left. -/
theorem setThenAt : Obligations.SetThenAt := by
  intro s m f hm hok hf hr
  obtain ⟨m', hset, he⟩ := exec_setPixel_inside hok hm hf hr
  have hwritten : (s.setSelected m').mip[s.selLevel.toNat]? = some m' :=
    List.getElem?_set_self (List.getElem?_eq_some_iff.mp hm).1
  refine ⟨s.setSelected m', he, (exec_atPixel_iff hwritten).mpr (sampleAt_levelSet_self hok hset hf hr),
    fun l x y v hl hne hat => ?_⟩
  obtain ⟨n, n', hn, hn', hsame⟩ := sampleAt_setSelected_other hm hok hf hr hset hl hne
  have hbefore := (exec_atPixel_iff (s := { s with selLevel := l, argX := x, argY := y }) hn).mp hat
  exact (exec_atPixel_iff (s := { s.setSelected m' with selLevel := l, argX := x, argY := y }) hn').mpr
    (hsame.trans hbefore)

end Sys2Proof.Machine
end

section
/-! SUPPORT. The function of 43_container_parser.md R212 and the state a decode call leaves: PARSE and PROBE are that
function (R192, R193), and the levels of a PARSE read as the stream (20_memory.md R54). -/

namespace Sys2Proof.Machine

/-- A stream that begins with the magic is no BadMagic (R194). -/
theorem magic_full {d : List Byte} (hm : d.take 4 = [0x44, 0x44, 0x53, 0x20]) :
    ¬ (d.length < 4 ∨ d.take 4 ≠ [0x44, 0x44, 0x53, 0x20]) :=
  not_or.mpr ⟨not_lt.mpr (four_le_length hm), not_not.mpr hm⟩

/-- A number within a bound that `w` bits hold is held by them. -/
theorem toNat_ofNat_of_le {w n k : Nat} (hk : k < 2 ^ w) (h : n ≤ k) : (BitVec.ofNat w n).toNat = n :=
  (BitVec.toNat_ofNat _ _).trans (Nat.mod_eq_of_lt (by omega))

/-- POS after a header that was read in full. -/
theorem afterHeader_pos_full (b : Bool) {s : State} (hl : s.input.length < 2 ^ 64) (h128 : 128 ≤ s.input.length) :
    (afterHeader b s).pos.toNat = 128 := by
  rw [afterHeader_pos b s hl, Nat.min_eq_left h128]

/-- Whatever the value of the loop of R212, the state it leaves is one of BUILD_MIP but for its phase and error. -/
theorem LevelsEnd.eq_building {f : PixelFormat} {s t : State} {r : CallResult} (h : LevelsEnd f s r t) :
    ∃ i pos acc p e, t = { building f s i pos acc with phase := p, err := e } := by
  cases r with
  | failed e pos =>
    obtain ⟨-, -, j, -, -, -, rfl⟩ := h
    exact ⟨j, pos, [], _, _, rfl⟩
  | probed w h' depth pos => exact h.elim
  | parsed g levels pos =>
    obtain ⟨-, -, -, -, rfl⟩ := h
    exact ⟨_, pos, levels, _, none, rfl⟩

/-- The state the loop of BUILD_MIP leaves reads off the value of the loop of R212. -/
theorem LevelsEnd.readsOff {f : PixelFormat} {s t : State} {r : CallResult} (hl : s.input.length < 2 ^ 64)
    (h : LevelsEnd f s r t) : readsOff t r := by
  cases r with
  | failed e pos =>
    obtain ⟨-, rfl, j, -, -, -, rfl⟩ := h
    exact ⟨rfl, rfl, toNat_ofNat_of_le hl le_rfl, rfl⟩
  | probed w h' depth pos => exact h.elim
  | parsed g levels pos =>
    obtain ⟨rfl, hlen, -, hle, rfl⟩ := h
    exact ⟨rfl, rfl, toNat_ofNat_of_le hl hle, rfl, rfl, hlen, (BitVec.ofNat_toNat ..).trans (BitVec.setWidth_eq _)⟩

/-- However a decode call ends, its state reads off the function of R212. -/
theorem CallEnd.readsOff {b : Bool} {s t : State} (hl : s.input.length < 2 ^ 64) (h : CallEnd b s t) :
    readsOff t (callFunction s.params s.input b) := by
  unfold callFunction
  cases h with
  | magic hm =>
    rw [if_pos (.inr hm)]
    exact ⟨rfl, rfl, toNat_ofNat_of_le hl (min_le_right _ _), rfl⟩
  | header hm hbad =>
    have hpos := afterHeader_pos b s hl
    rw [if_neg (magic_full hm)]
    by_cases h128 : s.input.length < 128
    · rw [if_pos h128]
      exact ⟨rfl, rfl, hpos.trans (Nat.min_eq_right h128.le), rfl⟩
    · rw [if_neg h128, if_pos (hbad.resolve_left h128)]
      exact ⟨rfl, rfl, hpos.trans (Nat.min_eq_left (not_lt.mp h128)), rfl⟩
  | ext hm h128 hsize htag =>
    rw [if_neg (magic_full hm), if_neg (not_lt.mpr h128), if_neg (not_not.mpr hsize), if_pos htag]
    exact ⟨rfl, rfl, afterHeader_pos_full b hl h128, rfl⟩
  | flags hm h128 hsize htag hflags =>
    rw [if_neg (magic_full hm), if_neg (not_lt.mpr h128), if_neg (not_not.mpr hsize), if_neg htag, if_pos hflags]
    exact ⟨rfl, rfl, afterHeader_pos_full b hl h128, rfl⟩
  | probed hb hm h128 hsize htag hflags =>
    rw [if_neg (magic_full hm), if_neg (not_lt.mpr h128), if_neg (not_not.mpr hsize), if_neg htag,
      if_neg (not_not.mpr hflags), if_pos hb]
    exact ⟨rfl, rfl, afterHeader_pos_full true hl h128, rfl, rfl, rfl, rfl, rfl, rfl⟩
  | format hb hm h128 hsize htag hflags hf =>
    rw [if_neg (magic_full hm), if_neg (not_lt.mpr h128), if_neg (not_not.mpr hsize), if_neg htag,
      if_neg (not_not.mpr hflags), if_neg (by simp [hb]), hf]
    exact ⟨rfl, rfl, afterHeader_pos_full false hl h128, rfl⟩
  | levels f _ hb hm h128 hsize htag hflags hf hend =>
    rw [if_neg (magic_full hm), if_neg (not_lt.mpr h128), if_neg (not_not.mpr hsize), if_neg htag,
      if_neg (not_not.mpr hflags), if_neg (by simp [hb]), hf]
    exact hend.readsOff hl

/-- A decode call says in PROBE which of the two it was. -/
theorem CallEnd.probe_eq {b : Bool} {s t : State} (h : CallEnd b s t) : t.probe = b := by
  cases h with
  | magic | header | ext | flags => rfl
  | probed hb | format hb => exact hb.symm
  | levels f _ hb _ _ _ _ _ _ hend =>
    obtain ⟨i, pos, acc, p, e, rfl⟩ := hend.eq_building
    exact hb.symm

/-- Whatever the end of a decode call, the levels it leaves read as the stream (R207). -/
theorem CallEnd.levelsRead {b : Bool} {s t : State} (h : CallEnd b s t) : LevelsRead s.input t.mip := by
  have hnil : LevelsRead s.input [] := by simp [LevelsRead]
  cases h with
  | magic | header | ext | flags | probed | format => exact hnil
  | levels f _ _ _ h128 _ _ _ _ hend =>
    cases hr : callLevels s.params f s.input (declaredLevels s) 0 128 [] with
    | failed e pos =>
      rw [hr] at hend
      obtain ⟨-, -, j, -, -, -, rfl⟩ := hend
      exact hnil
    | probed w h' depth pos =>
      rw [hr] at hend
      exact hend.elim
    | parsed g levels pos =>
      rw [hr] at hend
      obtain ⟨-, -, -, -, rfl⟩ := hend
      exact callLevels_read _ _ _ _ 0 128 [] _ _ _ rfl h128 hnil hr

/-- Settles O38: within the capacities the call is not refused, and its end reads off the function and the stream. -/
theorem parseIsCallFunction : Obligations.ParseIsCallFunction := by
  rintro s hl ⟨hcount, hbytes⟩
  rcases decodeCall_ends false s hl with ⟨t, he, hend⟩ | ⟨-, ⟨c, hc, hlt⟩, -⟩ | ⟨-, ⟨f, c, hf, hc, hlt⟩, -⟩
  · exact ⟨t, he, hend.probe_eq, hend.readsOff hl, hend.levelsRead⟩
  · exact absurd (hcount c hc) (not_le.mpr hlt)
  · exact absurd (hbytes f c hf hc) (not_le.mpr hlt)

/-- Settles O39: a PROBE builds no level, so no capacity refuses it. -/
theorem probeIsCallFunction : Obligations.ProbeIsCallFunction := by
  intro s hl
  rcases decodeCall_ends true s hl with ⟨t, he, hend⟩ | ⟨hb, -⟩ | ⟨hb, -⟩
  · exact ⟨t, he, hend.probe_eq, hend.readsOff hl⟩
  · cases hb
  · cases hb

end Sys2Proof.Machine
end

section
/-! SUPPORT. What a decode call leaves in the registers, test by test (43_container_parser.md R194 to R208,
60_exceptions.md R236): the header registers, the registers that VALIDATE_FLAGS loads, and the failed calls. -/

namespace Sys2Proof.Machine

/-- PARSE and PROBE are the decode calls. -/
theorem isDecodeCall_of_mem {c : Instr} (h : c ∈ ([.parse, .probe] : List Instr)) : isDecodeCall c = true := by
  rcases List.mem_pair.mp h with rfl | rfl <;> rfl

/-! ### The calls that fail before classification -/

/-- Settles O40: the first test of a decode call is the magic. -/
theorem wrongMagicFails : Obligations.WrongMagicFails := by
  intro s hl hm c hc
  rw [exec_decodeCall c s (isDecodeCall_of_mem hc), decodeCall_cases _ s hl, if_pos hm]
  rfl

/-- A header of 128 bytes with the size field 124 is no BadHeader (R195). -/
theorem header_full {d : List Byte} (h128 : 128 ≤ d.length) (hsize : streamWord d 0 = 124) :
    ¬ (d.length < 128 ∨ streamWord d 0 ≠ 124) := not_or.mpr ⟨not_lt.mpr h128, not_not.mpr hsize⟩

/-- Settles O41: `decodeCall_cases` makes the tests in this order. -/
theorem headerTestsInOrder : Obligations.HeaderTestsInOrder := by
  intro s hl hm c hc
  rw [exec_decodeCall c s (isDecodeCall_of_mem hc), decodeCall_cases _ s hl, if_neg (not_not.mpr hm)]
  generalize decide (c = .probe) = b
  refine ⟨fun hbad => ?_, fun h128 hsize htag => ?_, fun h128 hsize htag hflags => ?_⟩
  · rw [if_pos hbad]
    exact ⟨_, rfl, rfl, rfl, rfl, rfl, afterHeader_pos b s hl⟩
  · rw [if_neg (header_full h128 hsize), if_pos htag]
    exact ⟨_, rfl, rfl, rfl, rfl, rfl, afterHeader_pos_full b hl h128⟩
  · rw [if_neg (header_full h128 hsize), if_neg htag, if_pos hflags]
    exact ⟨_, rfl, rfl, rfl, rfl, rfl, afterHeader_pos_full b hl h128⟩

/-! ### The header registers -/

/-- Past the magic every end of a decode call leaves the header loaded (R197). -/
theorem CallEnd.hdrw_of_magic {b : Bool} {s t : State} (h : CallEnd b s t)
    (hm : s.input.take 4 = [0x44, 0x44, 0x53, 0x20]) : t.hdrw = streamHeader s.input := by
  cases h with
  | magic hne => exact absurd hm hne
  | header | ext | flags | probed | format => rfl
  | levels f _ _ _ _ _ _ _ _ hend =>
    obtain ⟨i, pos, acc, p, e, rfl⟩ := hend.eq_building
    rfl

/-- After a wrong magic the header registers are cleared (R211). -/
theorem CallEnd.hdrw_of_not_magic {b : Bool} {s t : State} (h : CallEnd b s t)
    (hm : s.input.take 4 ≠ [0x44, 0x44, 0x53, 0x20]) : t.hdrw = Vector.replicate 31 0 := by
  cases h with
  | magic => rfl
  | header h | ext h | flags h | probed _ h | format _ h | levels _ _ _ h => exact absurd h hm

/-- Register `i` of the header loaded from a stream is its word `i` (R31). -/
theorem getElem_streamHeader (d : List Byte) (i : Nat) (h : i < 31) : (streamHeader d)[i] = streamWord d i := by
  rw [streamHeader, getElem_headerWords _ _ h, headerWord_eq_streamWord _ _ h]

/-- Settles O42: the header is loaded at every end but BadMagic. -/
theorem headerRegistersLoaded : Obligations.HeaderRegistersLoaded := by
  intro c s t hc h
  obtain ⟨-, hend⟩ := exec_decodeCall_next c s t hc h
  refine ⟨fun hm i hi => ?_, fun hm i hi => ?_⟩
  · simp only [hend.hdrw_of_magic hm, getElem_streamHeader _ _ hi]
  · simp only [hend.hdrw_of_not_magic hm, Vector.getElem_replicate]

/-! ### The registers that VALIDATE_FLAGS loads -/

/-- The mip count and the probe outputs as VALIDATE_FLAGS loads them from the header of the stream of `s`
(R199, R200). -/
structure OutputsLoaded (s t : State) : Prop where
  mipCnt : t.mipCnt = streamMipCount s.params s.input
  outW : t.outW = streamWord s.input 3
  outH : t.outH = streamWord s.input 2
  outDepth : t.outDepth = 16

/-- The mip count and the probe outputs as the call's start clears them (R211). -/
structure OutputsCleared (t : State) : Prop where
  mipCnt : t.mipCnt = 0
  outW : t.outW = 0
  outH : t.outH = 0
  outDepth : t.outDepth = 0

/-- After the loop of BUILD_MIP the outputs are as VALIDATE_FLAGS loaded them. -/
theorem LevelsEnd.outputsLoaded {f : PixelFormat} {s t : State} {r : CallResult} (h : LevelsEnd f s r t) :
    OutputsLoaded s t := by
  obtain ⟨i, pos, acc, p, e, rfl⟩ := h.eq_building
  exact ⟨rfl, rfl, rfl, rfl⟩

/-- A header that passes every test leaves the outputs loaded, however the call goes on, and a PROBE done. -/
theorem CallEnd.outputsLoaded {b : Bool} {s t : State} (h : CallEnd b s t)
    (hm : s.input.take 4 = [0x44, 0x44, 0x53, 0x20]) (h128 : 128 ≤ s.input.length)
    (hsize : streamWord s.input 0 = 124) (htag : streamWord s.input 20 ≠ 0x30315844)
    (hflags : streamFlagsPresent s.params s.input) : OutputsLoaded s t ∧ (b = true → t.phase = .done) := by
  cases h with
  | magic hne => exact absurd hm hne
  | header _ hbad => exact absurd hbad (header_full h128 hsize)
  | ext _ _ _ h => exact absurd h htag
  | flags _ _ _ _ h => exact absurd hflags h
  | probed => exact ⟨⟨rfl, rfl, rfl, rfl⟩, fun _ => rfl⟩
  | format hb => exact ⟨⟨rfl, rfl, rfl, rfl⟩, by simp [hb]⟩
  | levels f _ hb _ _ _ _ _ _ hend => exact ⟨hend.outputsLoaded, by simp [hb]⟩

/-- Settles O43: the outputs are those of the header whatever comes after it; `HDRW[6]` keeps the raw field. -/
theorem probeOutputsWritten : Obligations.ProbeOutputsWritten := by
  intro c s t hc h hm h128 hsize htag hflags
  obtain ⟨-, hend⟩ := exec_decodeCall_next c s t hc h
  obtain ⟨⟨hcnt, hw, hh, hdepth⟩, hdone⟩ := hend.outputsLoaded hm h128 hsize htag hflags
  refine ⟨fun hset => ?_, fun hclear => ?_, ?_, hw, hh, hdepth, fun hprobe => hdone (decide_eq_true hprobe)⟩
  · rw [hcnt, streamMipCount, if_pos hset]
  · rw [hcnt, streamMipCount, if_neg (not_not.mpr hclear)]
  · simp only [hend.hdrw_of_magic hm, getElem_streamHeader _ 6 (by omega)]

/-! ### The failed calls -/

/-- What a call leaves that is short of bytes at a level (R208): the format, all bytes consumed, and the index of the
first level that the stream does not hold. -/
structure Truncated (s t : State) : Prop where
  err : t.err = some .truncatedData
  pos : t.pos.toNat = s.input.length
  level_lt : t.levelIdx.toNat < t.mipCnt.toNat
  format : ∃ f, streamFormat s.params s.input = some f ∧ t.fmt = some f ∧
    128 + levelBytes s.params s.input f t.levelIdx.toNat ≤ s.input.length ∧
    s.input.length < 128 + levelBytes s.params s.input f (t.levelIdx.toNat + 1)

/-- The loop of BUILD_MIP fails only short of bytes. -/
theorem LevelsEnd.truncated {f : PixelFormat} {s t : State} {r : CallResult} (hl : s.input.length < 2 ^ 64)
    (hf : streamFormat s.params s.input = some f) (h : LevelsEnd f s r t) (hp : t.phase = .failed) :
    Truncated s t := by
  cases r with
  | failed e pos =>
    obtain ⟨rfl, rfl, j, hj, hfull, hshort, rfl⟩ := h
    have hidx : (BitVec.ofNat 32 j).toNat = j := toNat_ofNat_of_le (declaredLevels_lt s) hj.le
    exact ⟨rfl, toNat_ofNat_of_le hl le_rfl, hidx.trans_lt hj, f, hf, rfl, hidx.symm ▸ hfull, hidx.symm ▸ hshort⟩
  | probed w h' depth pos => exact h.elim
  | parsed g levels pos =>
    obtain ⟨-, -, -, -, rfl⟩ := h
    cases hp

/-- The ways a decode call fails, by its error: before or in VALIDATE_FLAGS, in CLASSIFY, in BUILD_MIP
(60_exceptions.md R236). -/
inductive FailedBy (s t : State) : Prop
  | header (e : DecodeError) : e ≠ .unsupportedFormat → e ≠ .truncatedData → t.err = some e → OutputsCleared t →
      t.fmt = none → t.levelIdx = 0 → FailedBy s t
  | format : t.err = some .unsupportedFormat → OutputsLoaded s t → t.fmt = none → t.levelIdx = 0 → FailedBy s t
  | truncated : Truncated s t → OutputsLoaded s t → FailedBy s t

/-- A decode call that ends in FAILED failed in one of the three ways. -/
theorem CallEnd.failedBy {b : Bool} {s t : State} (hl : s.input.length < 2 ^ 64) (h : CallEnd b s t)
    (hp : t.phase = .failed) : FailedBy s t := by
  cases h with
  | magic | header | ext | flags =>
    exact .header _ (by decide) (by decide) rfl ⟨rfl, rfl, rfl, rfl⟩ rfl rfl
  | probed => cases hp
  | format => exact .format rfl ⟨rfl, rfl, rfl, rfl⟩ rfl rfl
  | levels f _ _ _ _ _ _ _ hf hend => exact .truncated (hend.truncated hl hf hp) hend.outputsLoaded

/-- Settles O44: the three ways a call fails; the frame is the row of the command (30_encoding.md R85). -/
theorem failedCallLeaves : Obligations.FailedCallLeaves := by
  intro c s t hc h hp
  obtain ⟨hl, hend⟩ := exec_decodeCall_next c s t hc h
  have hmip : t.mip = [] := by
    obtain ⟨-, -, hdone, -⟩ := hend.inv
    by_contra hne
    rw [(hdone hne).1] at hp
    cases hp
  have hframe : t.cmdErr = s.cmdErr ∧ t.res = s.res ∧ t.unit = s.unit := by
    have hrow : t = _ := hend.writesOnlyRow
    refine ⟨?_, ?_, ?_⟩ <;> rw [hrow]
  cases hend.failedBy hl hp with
  | header e hformat htruncated herr hout hfmt hidx =>
    obtain ⟨hcnt, hw, hh, hdepth⟩ := hout
    simp [herr, hformat, htruncated, hmip, hfmt, hidx, hcnt, hw, hh, hdepth, hframe]
  | format herr hout hfmt hidx =>
    obtain ⟨hcnt, hw, hh, hdepth⟩ := hout
    simp [herr, hmip, hfmt, hidx, hcnt, hw, hh, hdepth, hframe]
  | truncated htr hout =>
    obtain ⟨hcnt, hw, hh, hdepth⟩ := hout
    obtain ⟨herr, hpos, hlt, f, hf, hfmt, hfull, hshort⟩ := htr
    refine ⟨hmip, ⟨_, herr⟩, ?_, fun _ => ⟨hcnt, hw, hh, hdepth⟩, ?_, fun _ => ⟨hpos, hlt, f, hf, hfmt, hfull, hshort⟩,
      fun hne => absurd herr hne, hframe⟩
    · simp [herr]
    · simp [herr, hfmt]

end Sys2Proof.Machine
end

section
/-! SUPPORT. The transitions of the parser (43_container_parser.md R191): what each phase does under each condition, and
how far a decode call gets in how many of them. -/

namespace Sys2Proof.Machine

/-! ### The transition of each phase -/

/-- READ_MAGIC (R194): four bytes that are the tag are not short. -/
theorem readMagic_eq (s : State) : readMagic s =
    if streamTake 4 s = [0x44, 0x44, 0x53, 0x20] then (streamAdvance 4 s).setPhase .readHeader
    else raiseError .badMagic (streamAdvance 4 s) := by
  have htest : ((streamTake 4 s).length < 4 ∨ streamTake 4 s ≠ ddsMagic) ↔
      ¬ streamTake 4 s = [0x44, 0x44, 0x53, 0x20] :=
    ⟨by rintro h he; simp [he, ddsMagic] at h, .inr⟩
  simp only [readMagic, htest, ite_not]

/-- READ_HEADER leaves the header registers loaded, passed or not (R197). -/
theorem readHeader_hdrw (s : State) : (readHeader s).hdrw = headerWords (streamTake 124 s) := by
  unfold readHeader
  simp only [apply_ite State.hdrw]
  split_ifs <;> rfl

/-- READ_HEADER by the tests on the bytes it read and the registers it loaded (R195, R196). -/
theorem readHeader_eq (s : State) : readHeader s =
    if (streamTake 124 s).length < 124 ∨ (readHeader s).hdrw[0] ≠ 124 then
      raiseError .badHeader ((streamAdvance 124 s).loadHeader (streamTake 124 s))
    else if (readHeader s).hdrw[20] = 0x30315844 then
      raiseError .unsupportedExtension ((streamAdvance 124 s).loadHeader (streamTake 124 s))
    else ((streamAdvance 124 s).loadHeader (streamTake 124 s)).setPhase .validateFlags := by
  simp only [readHeader_hdrw]
  by_cases hshort : (streamTake 124 s).length < 124
  · exact (if_pos hshort).trans (if_pos (.inl hshort)).symm
  · simp only [hshort, false_or]
    exact if_neg hshort

/-- VALIDATE_FLAGS by the test on the required flags (R198, R200). -/
theorem validateFlags_eq (s : State) : validateFlags s =
    if s.hdrw[1] &&& (s.params.ddsdHeight ||| s.params.ddsdWidth ||| s.params.ddsdPixelFormat) =
        s.params.ddsdHeight ||| s.params.ddsdWidth ||| s.params.ddsdPixelFormat then
      (s.setProbeOutputs (effectiveMipCount s) s.hWidth s.hHeight).setPhase (if s.probe then .done else .classify)
    else raiseError .missingFields s := by
  simp only [validateFlags, requiredPresent, requiredFlags, beq_iff_eq, State.hFlags]

/-- A turn of BUILD_MIP that completes has read the next level, or has none left (R205, R209). -/
theorem buildMip_next {s t : State} (h : buildMip s = .next t) :
    (s.levelIdx.toNat < s.mipCnt.toNat ∧ t = readLevel (levelFor s s.levelIdx.toNat) s) ∨
    (s.mipCnt.toNat ≤ s.levelIdx.toNat ∧ t = s.setPhase .done) := by
  unfold buildMip at h
  split_ifs at h with hlt <;> cases h
  · exact .inl ⟨hlt, rfl⟩
  · exact .inr ⟨not_lt.mp hlt, rfl⟩

/-- A level read in full is appended (R207). -/
theorem readLevel_full {m : Level} {s : State} (h : (streamTake m.len s).length = m.len) :
    readLevel m s = (streamAdvance m.len s).appendLevel (fillLevel m (streamTake m.len s)) :=
  if_neg (by simp [h])

/-- A level that comes up short fails the call (R208). -/
theorem readLevel_short {m : Level} {s : State} (h : (streamTake m.len s).length < m.len) :
    readLevel m s = raiseError .truncatedData (streamAdvance m.len s) := if_pos h

/-- Reading a level stays in its phase or fails. -/
theorem readLevel_phase (m : Level) (s : State) :
    (readLevel m s).phase = s.phase ∨ (readLevel m s).phase = .failed := by
  simp only [readLevel]
  split_ifs
  · exact .inr rfl
  · exact .inl rfl

/-- Reading a level leaves the mip count. -/
@[simp] theorem readLevel_mipCnt (m : Level) (s : State) : (readLevel m s).mipCnt = s.mipCnt := by
  simp only [readLevel]
  split_ifs <;> rfl

/-- Only the two decode calls change `PHASE` (30_encoding.md R85). -/
theorem exec_phase_of_not_decodeCall {i : Instr} {s t : State} (hi : isDecodeCall i = false) (h : exec i s = .next t) :
    t.phase = s.phase := by
  have hrow := commandsWriteOnlyTheirRow i s t h
  cases i with
  | parse | probe => cases hi
  | atPixel | blkpixDxt1 | blkpixDxt3 | blkpixDxt5 => obtain hrow | hrow := hrow <;> rw [hrow]
  | setPixel =>
    obtain rfl | ⟨m, st, -, hrow, -⟩ | hrow := hrow
    · rfl
    · rw [hrow]
    · rw [hrow]
  | unpackBgra8888 | unpackBgr565 | unpackBgra5551 | unpackBgra4444 | unpackRgb565 | packBgra8888 | packBgr565
  | packBgra5551 | packBgra4444 | packRgb565 =>
    have hrow : t = _ := hrow
    rw [hrow]

/-- Settles O46: each phase by its own equation. -/
theorem phaseTransitions : Obligations.PhaseTransitions := by
  refine ⟨fun probe s => rfl, fun i s t hi h => exec_phase_of_not_decodeCall hi h, fun s t h => ?_⟩
  unfold phaseStep at h
  refine ⟨?_, fun hp => ?_, fun hp => ?_, fun hp => ?_, fun hp => ?_, fun hp => ?_⟩
  · rintro (hp | hp | hp) <;> rw [hp] at h <;> cases h <;> rfl
  · rw [hp] at h
    cases h
    rw [readMagic_eq]
    exact ⟨fun hm => by rw [if_pos hm]; rfl, fun hm => by rw [if_neg hm]; exact ⟨rfl, rfl⟩⟩
  · rw [hp] at h
    cases h
    refine ⟨fun ⟨hlen, hsize, htag⟩ => ?_, fun hbad => ?_, fun ⟨hlen, hsize, htag⟩ => ?_⟩
    · rw [readHeader_eq, if_neg (by simp [hlen, hsize]), if_neg htag]
      rfl
    · rw [readHeader_eq, if_pos hbad]
      exact ⟨rfl, rfl⟩
    · rw [readHeader_eq, if_neg (by simp [hlen, hsize]), if_pos htag]
      exact ⟨rfl, rfl⟩
  · rw [hp] at h
    cases h
    rw [validateFlags_eq]
    refine ⟨fun hflags => ?_, fun hflags => ?_⟩
    · rw [if_pos hflags]
      exact ⟨fun hb => by simp [hb], fun hb => by simp [hb]⟩
    · rw [if_neg hflags]
      exact ⟨rfl, rfl⟩
  · rw [hp] at h
    cases h
    unfold classifyFormat
    refine ⟨fun ⟨f, hf⟩ => ?_, fun hf => ?_⟩ <;> rw [hf] <;> exact ⟨rfl, rfl⟩
  · rw [hp] at h
    rcases buildMip_next h with ⟨hlt, rfl⟩ | ⟨hle, rfl⟩
    · refine ⟨fun _ hfull => ?_, fun _ hshort => ?_, fun hle => absurd hlt (not_lt.mpr hle)⟩
      · rw [readLevel_full hfull]
        exact ⟨hp, by simp; omega⟩
      · rw [readLevel_short hshort]
        exact ⟨rfl, rfl⟩
    · exact ⟨fun hlt => absurd hlt (not_lt.mpr hle), fun hlt => absurd hlt (not_lt.mpr hle), fun _ => rfl⟩

/-! ### A call within its bound -/

/-- How many transitions a phase comes after READ_MAGIC; the loop of BUILD_MIP and rest come last. -/
def stage : Phase → Nat
  | .readMagic => 0
  | .readHeader => 1
  | .validateFlags => 2
  | .classify => 3
  | .idle | .buildMip | .done | .failed => 4

theorem stage_le (p : Phase) : stage p ≤ 4 := by
  cases p <;> simp [stage]

/-- A resting phase is at the last stage. -/
theorem stage_of_resting {p : Phase} (h : resting p = true) : stage p = 4 := by
  cases p with
  | idle | done | failed => rfl
  | readMagic | readHeader | validateFlags | classify | buildMip => cases h

/-- A run of at least one transition rests where it is, or makes the transition and runs on. -/
theorem runPhases_succ_next {n : Nat} {s t : State} (h : runPhases (n + 1) s = .next t) :
    (resting s.phase = true ∧ t = s) ∨ ∃ u, phaseStep s = .next u ∧ runPhases n u = .next t := by
  by_cases hr : resting s.phase = true
  · rw [runPhases_resting _ _ hr] at h
    cases h
    exact .inl ⟨hr, rfl⟩
  · cases hstep : phaseStep s with
    | next u => exact .inr ⟨u, rfl, by rwa [runPhases_next n s u (by simpa using hr) hstep] at h⟩
    | fault r => simp [runPhases, hr, hstep] at h
    | refused r => simp [runPhases, hr, hstep] at h

/-- A transition takes a call one phase further, or to rest. -/
theorem stage_succ_le_of_phaseStep {s t : State} (h : phaseStep s = .next t) :
    min 4 (stage s.phase + 1) ≤ stage t.phase := by
  unfold phaseStep at h
  cases hp : s.phase <;> simp only [hp] at h
  case buildMip =>
    rcases buildMip_next h with ⟨-, rfl⟩ | ⟨-, rfl⟩
    · rcases readLevel_phase (levelFor s s.levelIdx.toNat) s with hr | hr <;> simp [hr, hp, stage]
    · simp [stage]
  all_goals cases h
  case idle | done | failed => simp [hp, stage]
  case readMagic => rw [readMagic_eq]; split_ifs <;> simp [stage]
  case readHeader => rw [readHeader_eq]; split_ifs <;> simp [stage]
  case validateFlags => rw [validateFlags_eq]; split_ifs <;> simp [stage]
  case classify => unfold classifyFormat; split <;> simp [stage]

/-- In the loop of BUILD_MIP and at rest the mip count stays. -/
theorem phaseStep_mipCnt {s t : State} (h : phaseStep s = .next t) (hs : stage s.phase = 4) : t.mipCnt = s.mipCnt := by
  unfold phaseStep at h
  cases hp : s.phase <;> simp only [hp] at h
  case buildMip =>
    rcases buildMip_next h with ⟨-, rfl⟩ | ⟨-, rfl⟩
    · exact readLevel_mipCnt _ s
    · rfl
  case idle | done | failed => cases h; rfl
  all_goals simp [hp, stage] at hs

/-- A run of at most `n` transitions takes a call `n` phases further, or to rest. -/
theorem stage_add_le_of_runPhases (n : Nat) : ∀ {s t : State}, runPhases n s = .next t →
    min 4 (stage s.phase + n) ≤ stage t.phase := by
  induction n with
  | zero => intro s t h; cases h; simp
  | succ n ih =>
    intro s t h
    rcases runPhases_succ_next h with ⟨hr, rfl⟩ | ⟨u, hstep, hrun⟩
    · simp [stage_of_resting hr]
    · have hfirst := stage_succ_le_of_phaseStep hstep
      have hrest := ih hrun
      omega

/-- From the loop of BUILD_MIP on a run keeps the mip count. -/
theorem runPhases_mipCnt (n : Nat) : ∀ {s t : State}, runPhases n s = .next t → stage s.phase = 4 →
    t.mipCnt = s.mipCnt := by
  induction n with
  | zero => intro s t h _; cases h; rfl
  | succ n ih =>
    intro s t h hs
    rcases runPhases_succ_next h with ⟨-, rfl⟩ | ⟨u, hstep, hrun⟩
    · rfl
    · have hu := stage_succ_le_of_phaseStep hstep
      rw [ih hrun (by have := stage_le u.phase; omega), phaseStep_mipCnt hstep hs]

/-- A decode call is the run from the cleared state, with the mip count it leaves in its bound. -/
theorem decodeCall_eq_run {b : Bool} {s t : State} (h : decodeCall b s = .next t) :
    runPhases (5 + t.mipCnt.toNat) (beginCall b s) = .next t := by
  unfold decodeCall at h
  split at h
  case isTrue =>
    cases hrun : runPhases 4 (beginCall b s) with
    | next u =>
      simp only [hrun] at h
      have hstage : stage u.phase = 4 := le_antisymm (stage_le _) (stage_add_le_of_runPhases 4 hrun)
      rw [runPhases_mipCnt _ h hstage, show 5 + u.mipCnt.toNat = 4 + (u.mipCnt.toNat + 1) by omega,
        runPhases_add _ _ _ _ hrun, h]
    | fault r => simp [hrun] at h
    | refused r => simp [hrun] at h
  case isFalse => cases h

/-- However a decode call ends, it rests (R190). -/
theorem CallEnd.done_or_failed {b : Bool} {s t : State} (h : CallEnd b s t) : t.phase = .done ∨ t.phase = .failed := by
  rcases h.failed_or_probed_or_parsed with hfail | rfl | ⟨f, hp⟩
  · exact .inr hfail.phase
  · exact .inl rfl
  · exact .inl hp.phase

/-- Settles O47: four transitions bring a call to the loop of BUILD_MIP or to rest, and the loop keeps `MIPCNT`. -/
theorem callsEndWithinBound : Obligations.CallsEndWithinBound := by
  intro c s t hc h
  refine ⟨(exec_decodeCall_next c s t hc h).2.done_or_failed, decodeCall_eq_run ?_⟩
  rw [← exec_decodeCall c s hc, h]

/-! ### A call and the one before it -/

/-- Settles O48: the call's start clears every field in which the two states differ. -/
theorem callsForgetTheLastCall : Obligations.CallsForgetTheLastCall := by
  intro c s s' hc hs'
  have hbegin (b : Bool) : beginCall b s' = beginCall b s := by rw [hs']; rfl
  have hinput : s'.input = s.input := by rw [hs']
  simp only [exec_decodeCall _ _ hc, decodeCall, hbegin, hinput]

end Sys2Proof.Machine
end

section
/-! SUPPORT. Classification (43_container_parser.md R201 to R203) and the dimensions of a mip level (R206). -/

namespace Sys2Proof.Machine

/-! ### Classification -/

/-- A flag of the descriptor is set (R201). -/
theorem flagSet_iff (flags mask : Word) : flagSet flags mask = true ↔ flags &&& mask ≠ 0 := by simp [flagSet]

/-- A flag of the descriptor is clear (R201). -/
theorem flagSet_eq_false_iff (flags mask : Word) : flagSet flags mask = false ↔ flags &&& mask = 0 := by simp [flagSet]

/-- The FOURCC branch by its three tags (R202). -/
theorem classifyFourCC_eq_some (tag : Word) (f : PixelFormat) : classifyFourCC tag = some f ↔
    (tag = 0x31545844 ∧ f = .block .dxt1) ∨ (tag = 0x33545844 ∧ f = .block .dxt3) ∨
      (tag = 0x35545844 ∧ f = .block .dxt5) := by
  unfold classifyFourCC tagDxt1 tagDxt3 tagDxt5
  split_ifs with h1 h3 h5
  · simp [h1, eq_comm]
  · simp [h3, eq_comm]
  · simp [h5, eq_comm]
  · simp only [h1, h3, h5, false_and, or_false]

/-- The RGB branch with ALPHAPIXELS by its three mask quadruples (R203). -/
theorem classifyRgb_true_eq_some (r g b a : Word) (f : PixelFormat) : classifyRgb true r g b a = some f ↔
    (r = 0xFF0000 ∧ g = 0xFF00 ∧ b = 0xFF ∧ a = 0xFF000000 ∧ f = .packed .bgra8888) ∨
      (r = 0x0F00 ∧ g = 0x00F0 ∧ b = 0x000F ∧ a = 0xF000 ∧ f = .packed .bgra4444) ∨
      (r = 0x7C00 ∧ g = 0x03E0 ∧ b = 0x001F ∧ a = 0x8000 ∧ f = .packed .bgra5551) := by
  simp only [classifyRgb, if_true, Prod.mk.injEq]
  split_ifs with h8888 h4444 h5551
  · simp [h8888, eq_comm]
  · simp [h4444, eq_comm]
  · simp [h5551, eq_comm]
  · simp only [false_iff]
    tauto

/-- The RGB branch without ALPHAPIXELS by its mask quadruple (R203). -/
theorem classifyRgb_false_eq_some (r g b a : Word) (f : PixelFormat) : classifyRgb false r g b a = some f ↔
    r = 0xF800 ∧ g = 0x07E0 ∧ b = 0x001F ∧ a = 0 ∧ f = .packed .bgr565 := by
  simp [classifyRgb, and_assoc, eq_comm (a := f)]

/-- The RGB branch is chosen by ALPHAPIXELS (R203). -/
theorem classifyRgb_eq_some (alpha : Bool) (r g b a : Word) (f : PixelFormat) :
    classifyRgb alpha r g b a = some f ↔
      (alpha = true ∧ classifyRgb true r g b a = some f) ∨ (alpha = false ∧ classifyRgb false r g b a = some f) := by
  cases alpha <;> simp

/-- The FOURCC branch comes first, and the RGB branch only where its flag is clear (R201). -/
theorem classify_eq_some (p : Params) (flags tag r g b a : Word) (f : PixelFormat) :
    classify p flags tag r g b a = some f ↔
      (flagSet flags p.ddpfFourCC = true ∧ classifyFourCC tag = some f) ∨
      (flagSet flags p.ddpfFourCC = false ∧ flagSet flags p.ddpfRgb = true ∧
        classifyRgb (flagSet flags p.ddpfAlphaPixels) r g b a = some f) := by
  unfold classify
  split_ifs with hfour hrgb <;> simp [*]

/-- ClassifyFormat moves on to BUILD_MIP with `f` exactly when the descriptor is classified as `f` (R201). -/
theorem classifyFormat_eq_setFormat (s : State) (f : PixelFormat) :
    classifyFormat s = s.setFormat f ↔ classifyHeader s = some f := by
  unfold classifyFormat
  cases classifyHeader s with
  | none =>
    refine ⟨fun h => ?_, fun h => ?_⟩
    · cases congrArg State.phase h
    · cases h
  | some g =>
    refine ⟨fun h => congrArg State.fmt h, fun h => ?_⟩
    cases h
    rfl

/-- Settles O50: the flags choose the branch, and each branch is its list of formats. -/
theorem classifierSelects : Obligations.ClassifierSelects := by
  refine fun s f => ⟨?_, fun h => ?_⟩
  · refine Iff.trans ?_ (classifyFormat_eq_setFormat s f).symm
    rw [classifyHeader, classify_eq_some, classifyRgb_eq_some, classifyRgb_true_eq_some, classifyRgb_false_eq_some,
      classifyFourCC_eq_some]
    simp only [flagSet_iff, flagSet_eq_false_iff]
    rfl
  · unfold classifyFormat
    rw [h]
    rfl

/-! ### Mip dimensions -/

/-- Settles O49: a shifted u32 is a u32, and so is 1. -/
theorem mipDimensions : Obligations.MipDimensions := by
  intro p base i
  have hle : base.toNat / 2 ^ i < 2 ^ 32 := (Nat.div_le_self _ _).trans_lt base.isLt
  unfold mipDim
  refine ⟨fun h => ?_, fun h => ?_⟩
  · rw [h, Nat.shiftRight_eq_div_pow, BitVec.toNat_ofNat, Nat.mod_eq_of_lt (max_lt (by norm_num) hle)]
  · rw [h, Nat.shiftRight_eq_div_pow, BitVec.toNat_ofNat, Nat.mod_eq_of_lt hle]

end Sys2Proof.Machine
end

section
/-! SUPPORT. `CMDERR` (60_exceptions.md R240, R241): a command sets it exactly when it is refused for its operands, and
what one step does to it. -/

namespace Sys2Proof.Machine

/-! ### A command (R241) -/

/-- The causes of R241 speak of the operands alone, not of the host's script. -/
theorem refusedFor_withScript (i : Instr) (s : State) (rest : List HostAction) :
    refusedFor i { s with script := rest } ↔ refusedFor i s := by
  cases i <;> rfl

/-- A command that is refused for its operands sets `CMDERR` alone (R240). -/
theorem exec_of_refusedFor {i : Instr} {s : State} (h : refusedFor i s) :
    exec i s = .next { s with cmdErr := true } := by
  cases i with
  | atPixel => exact (missingLevelRefused s h).1
  | setPixel =>
    obtain hlevel | ⟨m, f, hm, hf⟩ := h
    · exact (missingLevelRefused s hlevel).2
    · exact setOnBlockRefused s m f hm hf
  | blkpixDxt1 | blkpixDxt3 | blkpixDxt5 => exact blkpixCommandOf_outside s _ h
  | _ => exact h.elim

/-- There is a selected level where `SEL_LEVEL` is below `NLEV` (10_state.md R34). -/
theorem exists_selected {s : State} (h : ¬ s.nlev ≤ s.selLevel.toNat) : ∃ m, s.selected = some m :=
  ⟨_, List.getElem?_eq_getElem (not_le.mp h)⟩

/-- AT of a level leaves `CMDERR`. -/
theorem execAt_cmdErr {s t : State} (hr : ¬ refusedFor .atPixel s) (h : execAt s = .next t) : t.cmdErr = s.cmdErr := by
  obtain ⟨m, hm⟩ := exists_selected hr
  rcases execAt_cases s with ⟨hnone, -⟩ | ⟨m, -, -, he⟩ | ⟨m, k, -, -, -, he⟩ | ⟨m, -, -, -, he⟩
  · rw [hm] at hnone
    cases hnone
  all_goals rw [he] at h; cases h
  · rfl
  · rfl

/-- SET on a packed level leaves `CMDERR`. -/
theorem exec_setPixel_cmdErr {s t : State} (hr : ¬ refusedFor .setPixel s) (h : exec .setPixel s = .next t) :
    t.cmdErr = s.cmdErr := by
  obtain ⟨hlevel, hblock⟩ := not_or.mp hr
  obtain ⟨m, hm⟩ := exists_selected hlevel
  cases hf : m.fmt with
  | block f => exact absurd ⟨m, f, hm, hf⟩ hblock
  | packed f =>
    rw [exec_setPixel_packed hm hf] at h
    rcases setPacked_cases m f s with ⟨-, he⟩ | ⟨m', -, -, he⟩ | ⟨-, -, he⟩ <;> rw [he] at h <;> cases h
    · rfl
    · rfl

/-- BLKPIX of a pixel of the block leaves `CMDERR`. -/
theorem blkpixCommandOf_cmdErr {f : BlockFormat} {s t : State} (hin : inBlock s.argX.toInt ∧ inBlock s.argY.toInt)
    (h : blkpixCommandOf f s = .next t) : t.cmdErr = s.cmdErr := by
  obtain ⟨lx, ly, hx, hy, -⟩ := localCoord_inside s hin
  rw [blkpixCommandOf_inside s f lx ly hx hy] at h
  cases h
  rfl

/-- A command that is not refused for its operands leaves `CMDERR`. -/
theorem exec_cmdErr_of_not_refusedFor {i : Instr} {s t : State} (hr : ¬ refusedFor i s) (h : exec i s = .next t) :
    t.cmdErr = s.cmdErr := by
  cases i with
  | parse | probe =>
    have hrow : t = _ := commandsWriteOnlyTheirRow _ s t h
    rw [hrow]
  | atPixel => exact execAt_cmdErr hr h
  | setPixel => exact exec_setPixel_cmdErr hr h
  | unpackBgra8888 | unpackBgr565 | unpackBgra5551 | unpackBgra4444 | unpackRgb565 => cases h; rfl
  | packBgra8888 | packBgr565 | packBgra5551 | packBgra4444 | packRgb565 => cases h; rfl
  | blkpixDxt1 | blkpixDxt3 | blkpixDxt5 => exact blkpixCommandOf_cmdErr (not_not.mp hr) h

/-! ### A step (R240, R260) -/

/-- The host's next transaction issues an illegal word, or a command that is refused for its operands: the causes of
R241. -/
def State.issuesRefused (s : State) : Prop :=
  ∃ v rest, s.script = .wr 0x00 v :: rest ∧
    (illegalWord (BitVec.ofInt 8 v) = true ∨ ∃ i, decodeCommand (BitVec.ofInt 8 v) = .ok i ∧ refusedFor i s)

/-- A step with a cause of R241 sets `CMDERR` and changes nothing else but the script. -/
theorem step_of_issuesRefused {s : State} (h : s.issuesRefused) :
    step s = .next { s with script := s.script.tail, cmdErr := true } := by
  obtain ⟨v, rest, hs, hillegal | ⟨i, hd, hr⟩⟩ := h
  · rw [step_of_illegalWord hs hillegal, hs, List.tail_cons]
  · rw [stepRunsDecodedCommand s v rest i hs hd, exec_of_refusedFor ((refusedFor_withScript i s rest).mpr hr), hs,
      List.tail_cons]

/-- A step without a cause of R241 leaves `CMDERR`, or it is the reset, which clears it. -/
theorem step_cmdErr_of_not_issuesRefused {s t : State} (hn : ¬ s.issuesRefused) (h : step s = .next t) :
    t.cmdErr = s.cmdErr ∨ (∃ rest, s.script = .reset :: rest) ∧ t.cmdErr = false := by
  rcases step_cases s t h with ⟨-, rfl⟩ | ⟨a, rest, hs, ha⟩
  · exact .inl rfl
  · rcases ha with ⟨n, -, rfl⟩ | ⟨d, -, rfl⟩ | ⟨rfl, rfl⟩ | ⟨n, v, -, -, rfl⟩ | ⟨n, v, r, -, -, -, rfl⟩ |
      ⟨v, i, rfl, hd, hexec⟩ | ⟨v, k, rfl, hd, -⟩
    · exact .inl rfl
    · exact .inl rfl
    · exact .inr ⟨⟨rest, hs⟩, rfl⟩
    · exact .inl rfl
    · exact .inl (by rw [writeReg_eq])
    · have hr : ¬ refusedFor i { s with script := rest } := fun hr =>
        hn ⟨v, rest, hs, .inr ⟨i, hd, (refusedFor_withScript i s rest).mp hr⟩⟩
      have hkept := exec_cmdErr_of_not_refusedFor hr hexec
      exact .inl hkept
    · exact absurd ⟨v, rest, hs, .inl ((exists_decodeCommand_error_iff _).mp ⟨k, hd⟩)⟩ hn

/-- Settles O55: with a cause the step is known whole; without one it leaves `CMDERR` clear. -/
theorem cmderrHasItsCauses : Obligations.CmderrHasItsCauses := by
  intro s t hclear h
  by_cases hc : s.issuesRefused
  · rw [step_of_issuesRefused hc] at h
    cases h
    exact ⟨iff_of_true rfl hc, fun _ => rfl⟩
  · have ht : t.cmdErr ≠ true := by
      rcases step_cmdErr_of_not_issuesRefused hc h with hkept | ⟨-, hreset⟩
      · simp [hkept, hclear]
      · simp [hreset]
    exact ⟨iff_of_false ht hc, fun hset => absurd hset ht⟩

/-- Settles O56: a cause sets `CMDERR`, and every step without one but the reset leaves it. -/
theorem cmderrIsSticky : Obligations.CmderrIsSticky := by
  intro s t hset h hclear
  by_cases hc : s.issuesRefused
  · rw [step_of_issuesRefused hc] at h
    cases h
    cases hclear
  · rcases step_cmdErr_of_not_issuesRefused hc h with hkept | ⟨hreset, -⟩
    · rw [hkept, hset] at hclear
      cases hclear
    · exact hreset

end Sys2Proof.Machine
end
